-- ==== Sys2Proof/Word.lean ====
section
/-! DEFINITION. The words of the block: a byte, which is also a symbol (spec R7, R53), and the HOST's 64-bit command
word (spec R58). Everything the spec treats as a natural (cursor, indexes, counts) is a `Nat`. -/

namespace Sys2Proof

/-- A byte: 8 bits, unsigned (R7). A symbol is one byte (R53). -/
abbrev Byte := BitVec 8

/-- A HOST command word: 64 bits, bit 63 the most significant (R58). -/
abbrev CmdWord := BitVec 64

end Sys2Proof
end

