-- ==== Sys2Proof/Config.lean ====
section
/-! DEFINITION. The open parameters of the block (spec R5), the constraint each must meet, and the free values: constants
with no body, which nothing can evaluate, standing for what the spec leaves open (spec R32, R33, R69, R117, R128, R132). -/

namespace Sys2Proof

/-- The implementation parameters of R5. `HALF`, `BUFLEN` and `T` are derived from them (Machine/Geometry.lean). -/
structure Params where
  /-- `N`, the strip length. -/
  n : Nat
  /-- `B`, the pixel slots of one half (`buffered_pixels`). -/
  b : Nat
  /-- `HIGH_BIT`, the symbol of a 1 bit. -/
  highBit : Byte
  /-- `LOW_BIT`, the symbol of a 0 bit. -/
  lowBit : Byte
  /-- `GAMMA_EN`. -/
  gammaEn : Bool
  /-- `GAMMA`, the read-only table (R25, R41). -/
  gamma : Vector Byte 256
  /-- `CLK_THRESHOLD`, in hertz. -/
  clkThreshold : Nat
  /-- `BIT_RATE`, read by no rule. -/
  bitRate : Nat
  /-- `DmaChValid` as the list of the identifiers it holds of. -/
  dmaChValid : List Byte
  /-- `CUR_W`, the physical width of the cursor; the model's cursor is a natural (R14), so no rule reads it. -/
  curW : Nat
  deriving DecidableEq, Repr

/-- `GAMMA` is monotonic: `a <= b -> GAMMA(a) <= GAMMA(b)` (R5, R25). -/
def Params.GammaMonotone (p : Params) : Prop :=
  ∀ i j : Fin 256, i ≤ j → p.gamma[i] ≤ p.gamma[j]

/-- The constraints R5 puts on the parameters. -/
structure Params.Ok (p : Params) : Prop where
  n_pos : 1 ≤ p.n
  b_pos : 1 ≤ p.b
  low_lt_high : p.lowBit < p.highBit
  gamma_mono : p.GammaMonotone
  cur_width : p.n + 2 * p.b < 2 ^ p.curW

/-- The result of the last `INIT` (R22, R120). -/
inductive Status where
  | ok
  | configError
  deriving DecidableEq, Repr, Inhabited

/-- The numbers D2 gives the status values (R5, R120). -/
def Status.code : Status → Nat
  | .ok => 0
  | .configError => 1

/-- The four configuration registers of R21. -/
structure CfgRegs where
  /-- `cfg_dma_ch` -/
  dmaCh : BitVec 8
  /-- `cfg_timer` -/
  timer : BitVec 8
  /-- `cfg_out_ch` -/
  outCh : BitVec 8
  /-- `cfg_clk` -/
  clk : BitVec 32
  deriving DecidableEq, Repr, Inhabited

/-- The agents' turns between which the schedule chooses (R128): the HOST's next micro-step, one of the two IRQ steps,
or one step of the STREAMER. -/
inductive Turn where
  | host
  | irqHt
  | irqTc
  | stream
  deriving DecidableEq, Repr, Inhabited

/-- One choice of the schedule (R33): which agent steps, and, if it is the HOST in the middle of a Pixel Store command,
which of the remaining byte writes it does (R69). -/
structure Choice where
  turn : Turn
  pick : Nat
  deriving DecidableEq, Repr, Inhabited

/-! ### Free values. None has a body. -/

/-- The schedule where State holds no more of it as data (R128, R132, R69; log 3, log 8). -/
opaque Config.freeChoice : Nat → Choice

/-- The configuration registers after a failed `INIT` (R117; log 10). -/
opaque Config.failedCfg : Nat → CfgRegs

/-- Power-on values of the registers R32 calls unspecified (log 6). -/
opaque Config.powerOnCursor : Nat
opaque Config.powerOnRd : Nat
opaque Config.powerOnCcr : Byte
opaque Config.powerOnCfg : CfgRegs
opaque Config.powerOnStatus : Status

/-- Power-on contents of the two memories, byte by byte (R23, R24; log 7). -/
opaque Config.powerOnPix : Nat → Byte
opaque Config.powerOnBuf : Nat → Byte

/-! ### The parameters of the machine at reset: open constants, made so that they meet R5's constraints (log 1). -/

opaque Config.nPred : Nat
opaque Config.bPred : Nat
opaque Config.lowRaw : Nat
opaque Config.highRaw : Nat
opaque Config.gammaEn : Bool
opaque Config.gammaRaw : Nat → Byte
opaque Config.clkThreshold : Nat
opaque Config.bitRate : Nat
opaque Config.dmaChValid : List Byte
opaque Config.curWExtra : Nat

/-- The greatest of `raw 0 … raw v`, as a natural. A table made of it is monotonic, and every monotonic table is made so
(of itself). -/
def Config.runningMax (raw : Nat → Byte) : Nat → Nat
  | 0 => (raw 0).toNat
  | v + 1 => max (Config.runningMax raw v) (raw (v + 1)).toNat

/-- `LOW_BIT` as a natural below 255, so that a greater `HIGH_BIT` exists (R5). -/
def Config.low : Nat := Config.lowRaw % 255

/-- The machine's parameters: any values that meet R5's constraints, and no particular ones. -/
def Config.params : Params where
  n := Config.nPred + 1
  b := Config.bPred + 1
  lowBit := BitVec.ofNat 8 Config.low
  highBit := BitVec.ofNat 8 (Config.low + 1 + Config.highRaw % (255 - Config.low))
  gammaEn := Config.gammaEn
  gamma := Vector.ofFn fun v => BitVec.ofNat 8 (Config.runningMax Config.gammaRaw v.val)
  clkThreshold := Config.clkThreshold
  bitRate := Config.bitRate
  dmaChValid := Config.dmaChValid
  curW := (Config.nPred + 1 + 2 * (Config.bPred + 1)).log2 + 1 + Config.curWExtra

end Sys2Proof
end

