-- ==== Sys2Proof/Machine/Geometry.lean ====
section
/-! DEFINITION. The sizes derived from the parameters (spec R5): HALF, BUFLEN, T, and the number K of completion signals
of one display request (spec R97). -/

namespace Sys2Proof

/-- `HALF = 24 * B` (R5) -/
def Params.half (p : Params) : Nat := 24 * p.b

/-- `BUFLEN = 2 * HALF = 48 * B` (R5) -/
def Params.buflen (p : Params) : Nat := 48 * p.b

/-- `T = N + B`, the termination threshold (R5) -/
def Params.threshold (p : Params) : Nat := p.n + p.b

/-- `K = ceil(N/B)` (R97) -/
def Params.signals (p : Params) : Nat := (p.n + p.b - 1) / p.b

end Sys2Proof
end

