-- ==== Sys2Proof/Syntax.lean ====
section
/-! DEFINITION. The nine operations of the block (spec R9, opcode_table.json), one constructor each, and the half number
that `ENCODE_HALF` takes. -/

namespace Sys2Proof

/-- A half of the Circular Transfer Buffer: half 0 or half 1 (R38). -/
inductive Half where
  | h0
  | h1
  deriving DecidableEq, Repr

/-- The number of a half. -/
def Half.toNat : Half → Nat
  | .h0 => 0
  | .h1 => 1

/-- The operations of R9, in the order of opcode_table.json. A pixel index is a natural (R71); that it fits the command
word's 32-bit field is a check of WellFormed.lean. -/
inductive Instr where
  /-- `INIT dma_ch, timer, out_ch, clk` (R115) -/
  | init (dmaCh timer outCh : BitVec 8) (clk : BitVec 32)
  /-- `SET index, r, g, b` (R71) -/
  | set (index : Nat) (r g b : Byte)
  /-- `CLEAR index` (R72) -/
  | clear (index : Nat)
  /-- `CLEAR_ALL` (R73) -/
  | clearAll
  /-- `DISPLAY` (R87) -/
  | display
  /-- `IRQ_HT` (R90) -/
  | irqHt
  /-- `IRQ_TC` (R91) -/
  | irqTc
  /-- `STREAM` (R106) -/
  | stream
  /-- `ENCODE_HALF h` (R82) -/
  | encodeHalf (h : Half)
  deriving DecidableEq, Repr

end Sys2Proof
end

