-- ==== Sys2Proof/Machine/State.lean ====
section
/-! DEFINITION. The state of the machine as plain data: everything spec/10_state.md gives the block (R13), and the inputs
of the step relation that R33 names (parameters, HOST commands, schedule). The reasons a step can stop. The state after
reset (R32). -/

namespace Sys2Proof.Machine

/-- Faults: conditions to which the spec assigns no resulting state (R121). -/
inductive Fault where
  /-- Raised by `SET` and `CLEAR` with `index >= N`, before any byte is written (R124). The value is the index. SAFE: the
  hardware's unchecked access goes on, the model stops. -/
  | indexOutOfRange (index : Nat)
  /-- Raised by `STREAM` when `rd` is outside `BUF`, an address that R8 and R37 say does not exist. No state that meets the
  invariant raises it (log 13). SAFE: the model stops. -/
  | bufOutOfRange (rd : Nat)
  deriving DecidableEq, Repr

/-- Refusals: operations to which the spec gives no meaning (R122), and those that stand outside what the agents do. -/
inductive Refusal where
  /-- An instruction without a meaning in this model; no arm of exec raises it. SAFE. -/
  | notModelled (mnemonic : String)
  /-- Raised by the HOST's turn: the command word's `op` is not in 0x01 to 0x05 (R63). SAFE. -/
  | reservedOpcode
  /-- Raised by the HOST's turn: a must-be-zero field is not zero (R64). SAFE. -/
  | reservedField
  /-- Raised by `INIT` when `init_state` is not `UNINIT` (R118). SAFE. -/
  | reInit
  /-- Raised by `DISPLAY` when `init_state` is not `READY` (R119). SAFE. -/
  | displayNotReady
  /-- Raised by `IRQ_HT`, `IRQ_TC` and `STREAM` when the word that enables them is 0 (R61, R62): no agent can take such a
  step, and `step` never does (log 12). SAFE. -/
  | notEnabled
  /-- Raised by a HOST command while another is in progress: the HOST is one sequential thread (R69), and `step` never
  starts a second one (log 9). SAFE. -/
  | hostBusy
  /-- Raised by `step` in a state whose `refused` mark is set: no claim can be made about that run (R122; log 11). SAFE. -/
  | alreadyRefused
  deriving DecidableEq, Repr

/-- The code R121 gives a fault; 0 for the model's own. -/
def Fault.code : Fault → Nat
  | .indexOutOfRange _ => 1
  | .bufOutOfRange _ => 0

/-- The code R122 gives a refusal; 0 for the model's own. -/
def Refusal.code : Refusal → Nat
  | .reservedOpcode => 1
  | .reservedField => 2
  | .reInit => 3
  | .displayNotReady => 4
  | _ => 0

/-- The states of the Transfer Scheduler (R15, R86). -/
inductive SchedState where
  | idle
  | armed
  | streaming
  | done
  deriving DecidableEq, Repr

/-- Whether `INIT` has run (R20). -/
inductive InitState where
  | uninit
  | ready
  | failed
  deriving DecidableEq, Repr

/-- A channel of a pixel (R8). -/
inductive Chan where
  | r
  | g
  | b
  deriving DecidableEq, Repr

/-- One byte-write micro-step of a Pixel Store command: `PixWrite(index, chan, value)` (R69). -/
structure PixWrite where
  index : Nat
  chan : Chan
  value : Byte
  deriving DecidableEq, Repr

/-- The micro-steps of `DISPLAY` after D1 (R87). -/
inductive DisplayStep where
  | d2
  | d3
  | d4
  | d5
  deriving DecidableEq, Repr

/-- What is left of the HOST's command in progress (R128d): nothing; byte writes still to be done, in any order (R69); or
`DISPLAY` at the micro-step it does next (R87). -/
inductive HostWork where
  | idle
  | writes (ws : List PixWrite)
  | display (next : DisplayStep)
  deriving DecidableEq, Repr

/-- A byte memory indexed from 0 (R34, R48): the written bytes, addresses strictly rising. An unlisted address holds no
written byte; what reading it gives is `pixRead` and `bufRead` (Machine/Ops.lean; log 7). -/
abbrev Memory := List Host.Cell

/-- The canonical form: addresses strictly rising. Since an unlisted address holds no byte at all, no entry can equal it. -/
abbrev Memory.wf (m : Memory) : Prop := m.Pairwise fun x y => x.1 < y.1

/-- The state of the block (R13) and the inputs of its step (R33). -/
structure State where
  /-- The parameters (R5, R33), `GAMMA` among them; no step changes them (log 1). -/
  params : Params
  /-- `cursor` (R14) -/
  cursor : Nat
  /-- `rd` (R17) -/
  rd : Nat
  /-- `ccr` (R19) -/
  ccr : Byte
  /-- `st` (R15) -/
  st : SchedState
  /-- `xfer_en` (R16) -/
  xferEn : Bool
  /-- `pend_half` (R18) -/
  pendHalf : Bool
  /-- `pend_full` (R18) -/
  pendFull : Bool
  /-- `init_state` (R20) -/
  initState : InitState
  /-- `cfg_dma_ch`, `cfg_timer`, `cfg_out_ch`, `cfg_clk` (R21) -/
  cfg : CfgRegs
  /-- `status` (R22) -/
  status : Status
  /-- `pix`, the Pixel Store (R23) -/
  pix : Memory
  /-- `buf`, the Circular Transfer Buffer (R24) -/
  buf : Memory
  /-- ghost `out` (R29a) -/
  out : List Byte
  /-- ghost `out_mark` (R29b) -/
  outMark : Nat
  /-- ghost `enc_calls` (R29c) -/
  encCalls : Nat
  /-- ghost `disable_cnt` (R29d) -/
  disableCnt : Nat
  /-- ghost `overrun` (R29e) -/
  overrun : Bool
  /-- the fault record (R30; log 11) -/
  fault : Option Fault
  /-- the mark `refused` (R30; log 11) -/
  refused : Bool
  /-- the HOST's command words still to be issued, next first (R26, R33; log 2) -/
  cmds : List CmdWord
  /-- the HOST's command in progress (R128d; log 9) -/
  work : HostWork
  /-- the schedule's choices given as data, next first (R33; log 3) -/
  sched : List Choice
  /-- the number of free values taken so far (log 3, log 10) -/
  fresh : Nat
  deriving DecidableEq, Repr

/-- The state of R32 after power-on reset of a block with parameters `p`. The registers R32 calls unspecified hold constants
that nothing can evaluate (log 6), the memories list nothing (log 7), and no command or schedule is given (log 2, log 3). -/
def State.resetWith (p : Params) : State where
  params := p
  cursor := Config.powerOnCursor
  rd := Config.powerOnRd % p.buflen
  ccr := Config.powerOnCcr
  st := .idle
  xferEn := false
  pendHalf := false
  pendFull := false
  initState := .uninit
  cfg := Config.powerOnCfg
  status := Config.powerOnStatus
  pix := []
  buf := []
  out := []
  outMark := 0
  encCalls := 0
  disableCnt := 0
  overrun := false
  fault := none
  refused := false
  cmds := []
  work := .idle
  sched := []
  fresh := 0

/-- The machine right after reset (R32), with the open parameters (log 1). -/
def State.reset : State := State.resetWith Config.params

end Sys2Proof.Machine
end

