-- ==== Sys2Proof/Machine/Operands.lean ====
section
/-! DEFINITION. The operand forms (spec R163) and the pure functions: addresses in PIX and BUF (R36, R39, R40), the gamma
function (R70), the symbol encodings (R77 to R79, R54, R55), the byte writes of the Pixel Store commands (R71 to R73), and
the validity of INIT's operands (R114). -/

namespace Sys2Proof.Machine

/-- `off(r) = 0`, `off(g) = 1`, `off(b) = 2` (R8, R36) -/
def chanOff : Chan → Nat
  | .r => 0
  | .g => 1
  | .b => 2

/-- The `PIX` address of channel `c` of pixel `i` (R36). -/
def pixAddr (i : Nat) (c : Chan) : Nat := 3 * i + chanOff c

/-- The first `BUF` address of a half (R38). -/
def halfBase (p : Params) (h : Half) : Nat := h.toNat * p.half

/-- The first `BUF` address of slot `slot` of half `h` (R40). -/
def slotAddr (p : Params) (h : Half) (slot : Nat) : Nat := halfBase p h + 24 * slot

/-- `HalfOf(j)` (R39) -/
def halfOf (p : Params) (j : Nat) : Half := if j < p.half then .h0 else .h1

/-- `GCORR(v)` (R70) -/
def gcorr (p : Params) (v : Byte) : Byte :=
  if p.gammaEn then p.gamma[v.toFin] else v

/-- `SYM(x)` (R77) -/
def sym (p : Params) (x : Bool) : Byte := if x then p.highBit else p.lowBit

/-- `ENC_BYTE(v)`: bit 7 first (R78) -/
def encByte (p : Params) (v : Byte) : List Byte :=
  [7, 6, 5, 4, 3, 2, 1, 0].map fun k => sym p (v.getLsbD k)

/-- `ENC_PIXEL(r, g, b)`: green, then red, then blue (R79) -/
def encPixel (p : Params) (r g b : Byte) : List Byte :=
  encByte p g ++ encByte p r ++ encByte p b

/-- `TRAIL_SYM = LOW_BIT` (R5, C5) -/
def trailSym (p : Params) : Byte := p.lowBit

/-- A trailing slot: 24 copies of `TRAIL_SYM` (R55) -/
def trailingSlot (p : Params) : List Byte := List.replicate 24 (trailSym p)

/-- The byte writes of `SET` (R71), in no order (R69). -/
def setWrites (p : Params) (index : Nat) (r g b : Byte) : List PixWrite :=
  [⟨index, .r, gcorr p r⟩, ⟨index, .g, gcorr p g⟩, ⟨index, .b, gcorr p b⟩]

/-- The byte writes of `CLEAR`: the byte 0 itself, not passed through `GCORR` (R72). -/
def clearWrites (index : Nat) : List PixWrite :=
  [⟨index, .r, 0⟩, ⟨index, .g, 0⟩, ⟨index, .b, 0⟩]

/-- The byte writes of `CLEAR_ALL` (R73). -/
def clearAllWrites (p : Params) : List PixWrite :=
  (List.range p.n).flatMap clearWrites

/-- `DmaChValid(dma_ch)` (R114) -/
def dmaChOk (p : Params) (dmaCh : BitVec 8) : Bool := p.dmaChValid.contains dmaCh

/-- `OUT_CH_MIN` and `OUT_CH_MAX` (R5) -/
def outChMin : Nat := 1
def outChMax : Nat := 4

/-- `OUT_CH_MIN <= out_ch <= OUT_CH_MAX` (R114) -/
def outChOk (outCh : BitVec 8) : Bool := decide (outChMin ≤ outCh.toNat) && decide (outCh.toNat ≤ outChMax)

/-- `clk > CLK_THRESHOLD` (R114) -/
def clkOk (p : Params) (clk : BitVec 32) : Bool := decide (p.clkThreshold < clk.toNat)

end Sys2Proof.Machine
end

