-- ==== Sys2Proof/Machine/Flags.lean ====
section
/-! DEFINITION. The flags of the block (spec R27): the two pending flags (R18), what sets them (R106, R109), what clears
them (R127), the event word they form (R61), and the ghost flag overrun (R110). There are no condition codes. -/

namespace Sys2Proof.Machine

/-- The two completion signals: half-complete and complete (R126). -/
inductive Sig where
  | ht
  | tc
  deriving DecidableEq, Repr

/-- The flag of a signal (R18). -/
def pending (sig : Sig) (s : State) : Bool :=
  match sig with
  | .ht => s.pendHalf
  | .tc => s.pendFull

/-- Some completion signal is pending (R129). -/
def anyPending (s : State) : Bool := s.pendHalf || s.pendFull

/-- The event word `ev = pend_full ++ pend_half` (R61). -/
def eventWord (s : State) : BitVec 2 := BitVec.ofBool s.pendFull ++ BitVec.ofBool s.pendHalf

/-- The tick word `xfer_en` (R62). -/
def tickWord (s : State) : BitVec 1 := BitVec.ofBool s.xferEn

/-- Step (d) of the handler: the flag it serviced is cleared (R89). -/
def acknowledge (sig : Sig) (s : State) : State :=
  match sig with
  | .ht => { s with pendHalf := false }
  | .tc => { s with pendFull := false }

/-- What the termination branch and a successful `INIT` do to the flags: both are cleared (R92, R115). -/
def clearFlags (s : State) : State := { s with pendHalf := false, pendFull := false }

/-- The end of a `STREAM` step, `rd` having its new value: a flag is raised when a half has been left (R109), a flag already
set stays set (R18), and `overrun` is set when both flags are (R110). -/
def raiseFlags (s : State) : State :=
  let half := s.pendHalf || decide (s.rd = s.params.half)
  let full := s.pendFull || decide (s.rd = 0)
  { s with pendHalf := half, pendFull := full, overrun := s.overrun || (half && full) }

end Sys2Proof.Machine
end

