-- ==== Sys2Proof/Machine/Ops.lean ====
section
/-! DEFINITION. The named operations over memory and registers: reading and writing PIX and BUF (spec R8), ENC_SLOT and
ENCODE_HALF (R80, R82), the one shared interrupt HANDLER with its entry and return (R89, R134, R135), and the HOST's
micro-steps (R69, R87). -/

namespace Sys2Proof.Machine

/-! ### Memory -/

/-- The byte written at an address, if any. -/
def Memory.get : Memory → Nat → Option Byte
  | [], _ => none
  | (k, v) :: m, a => if k = a then some v else Memory.get m a

/-- Write a byte, keeping the canonical form. -/
def Memory.put : Memory → Nat → Byte → Memory
  | [], a, v => [(a, v)]
  | (k, w) :: m, a, v =>
    if a < k then (a, v) :: (k, w) :: m
    else if a = k then (a, v) :: m
    else (k, w) :: Memory.put m a v

/-- Write consecutive bytes from an address up. -/
def Memory.putAll : Memory → Nat → List Byte → Memory
  | m, _, [] => m
  | m, a, y :: ys => Memory.putAll (Memory.put m a y) (a + 1) ys

/-- The byte a read of `PIX` address `a` gives: the last one written, else its power-on content (R23; log 7). -/
def pixReadAt (s : State) (a : Nat) : Byte := (Memory.get s.pix a).getD (Config.powerOnPix a)

/-- `PixRead(i, c)` (R8) -/
def pixRead (s : State) (i : Nat) (c : Chan) : Byte := pixReadAt s (pixAddr i c)

/-- `PixWrite(i, c, v)` (R8) -/
def pixWrite (s : State) (w : PixWrite) : State :=
  { s with pix := Memory.put s.pix (pixAddr w.index w.chan) w.value }

/-- `BufRead(j)`: the last byte written, else the power-on content (R8, R24; log 7). -/
def bufRead (s : State) (j : Nat) : Byte := (Memory.get s.buf j).getD (Config.powerOnBuf j)

/-! ### The Bit Encoder -/

/-- The 24 symbols of the slot for cursor value `idx` (R80): pixel `idx` when it is a real one, a trailing slot otherwise.
The Pixel Store is read only under `idx < N` (R83). -/
def slotSymbols (s : State) (idx : Nat) : List Byte :=
  if idx < s.params.n then
    encPixel s.params (pixRead s idx .r) (pixRead s idx .g) (pixRead s idx .b)
  else trailingSlot s.params

/-- `ENC_SLOT(base, idx)` (R80) -/
def encSlot (base idx : Nat) (s : State) : State :=
  { s with buf := Memory.putAll s.buf base (slotSymbols s idx) }

/-- One iteration of `ENCODE_HALF`'s loop: the slot, then the cursor (R82). -/
def encIteration (h : Half) (slot : Nat) (s : State) : State :=
  { encSlot (slotAddr s.params h slot) s.cursor s with cursor := s.cursor + 1 }

/-- The first `k` iterations of `ENCODE_HALF`'s loop. -/
def encIterations (h : Half) : Nat → State → State
  | 0, s => s
  | k + 1, s => encIteration h k (encIterations h k s)

/-- `ENCODE_HALF h` (R82): `B` slots, then the ghost count. -/
def encodeHalf (h : Half) (s : State) : State :=
  let t := encIterations h s.params.b s
  { t with encCalls := t.encCalls + 1 }

/-! ### The interrupt handler -/

/-- The half a signal frees: half-complete half 0, complete half 1 (R89). -/
def sigHalf : Sig → Half
  | .ht => .h0
  | .tc => .h1

/-- The termination branch: disable, clear both flags, `DONE` (R92). -/
def terminate (s : State) : State :=
  { clearFlags s with xferEn := false, st := .done, disableCnt := s.disableCnt + 1 }

/-- The refill branch, and the return by acknowledging the flag (R89 (b) to (d), R135). -/
def refill (sig : Sig) (s : State) : State := acknowledge sig (encodeHalf (sigHalf sig) s)

/-- `HANDLER(sig)`: entry to return in one atomic step, the termination test first (R89, R134). Nothing is saved and nothing
restored. -/
def handler (sig : Sig) (s : State) : State :=
  if s.params.threshold ≤ s.cursor then terminate s else refill sig s

/-- An IRQ step: it exists only when the event word selects it (R61). -/
def irqStep (sig : Sig) (s : State) : Host.Outcome State Fault Refusal :=
  if pending sig s then .next (handler sig s) else .refused .notEnabled

/-! ### The schedule's choices -/

/-- The choice that the next step uses: the next one given as data, else a free one (R33; log 3). -/
def nextChoice (s : State) : Choice :=
  match s.sched with
  | c :: _ => c
  | [] => Config.freeChoice s.fresh

/-- The state with that choice used up. -/
def dropChoice (s : State) : State :=
  match s.sched with
  | _ :: rest => { s with sched := rest }
  | [] => { s with fresh := s.fresh + 1 }

/-! ### The HOST's micro-steps -/

/-- What remains of a Pixel Store command after some of its writes. -/
def workOf : List PixWrite → HostWork
  | [] => .idle
  | w :: ws => .writes (w :: ws)

/-- One byte-write micro-step: any one of the remaining writes, as the schedule picks (R69). -/
def writeStep (pick : Nat) (ws : List PixWrite) (s : State) : State :=
  match ws[pick % ws.length]? with
  | some w => { pixWrite s w with work := workOf (ws.eraseIdx (pick % ws.length)) }
  | none => { s with work := .idle }

/-- D2 of `DISPLAY` (R87) -/
def displayD2 (s : State) : State :=
  { s with cursor := 0, encCalls := 0, disableCnt := 0, work := .display .d3 }

/-- D5 of `DISPLAY` (R87) -/
def displayD5 (s : State) : State :=
  { s with rd := 0, xferEn := true, st := .streaming, outMark := s.out.length, work := .idle }

/-- A HOST command starts only when the HOST has none in progress (R69). -/
def whenHostFree (s : State) (o : Host.Outcome State Fault Refusal) : Host.Outcome State Fault Refusal :=
  match s.work with
  | .idle => o
  | .writes _ => .refused .hostBusy
  | .display _ => .refused .hostBusy

/-- Apply a change to the next state of an outcome; a stop stays as it is. -/
def onNext (f : State → State) : Host.Outcome State Fault Refusal → Host.Outcome State Fault Refusal
  | .next t => .next (f t)
  | .fault r => .fault r
  | .refused r => .refused r

/-! ### The model's record of a stop (R30) -/

/-- The record R121 and R122 keep of an outcome: the first fault raised, and the mark `refused` (log 11). -/
def recordOutcome (s : State) : Host.Outcome State Fault Refusal → State
  | .next t => t
  | .fault r => { s with fault := s.fault.or (some r) }
  | .refused _ => { s with refused := true }

end Sys2Proof.Machine
end

