-- ==== Sys2Proof/Machine/BitEncoder.lean ====
section
/-! DEFINITION. ENCODE_HALF as an operation of the table (spec/41_bit_encoder.md, R82). It runs inside the step of its
caller (R85); the procedure itself is `encodeHalf` of Machine/Ops.lean. -/

namespace Sys2Proof.Machine

/-- `ENCODE_HALF h` (R82): it cannot fault and tests nothing. -/
def execEncodeHalf (h : Half) (s : State) : Host.Outcome State Fault Refusal := .next (encodeHalf h s)

end Sys2Proof.Machine
end

