-- ==== Sys2Proof/Machine/Init.lean ====
section
/-! DEFINITION. The configuration load INIT (spec/44_init.md, R114 to R120). -/

namespace Sys2Proof.Machine

/-- A failed `INIT`: the error status, `FAILED`, and any value in the configuration registers (R115, R117; log 10). -/
def initFailed (s : State) : State :=
  { s with
    status := .configError
    initState := .failed
    cfg := Config.failedCfg s.fresh
    fresh := s.fresh + 1 }

/-- A successful `INIT` (R115). -/
def initReady (cfg : CfgRegs) (s : State) : State :=
  { clearFlags s with cfg := cfg, st := .idle, xferEn := false, status := .ok, initState := .ready }

/-- The checks in the order of R115 and R133: the transfer channel first. -/
def initLoad (cfg : CfgRegs) (s : State) : State :=
  if dmaChOk s.params cfg.dmaCh then
    if clkOk s.params cfg.clk && outChOk cfg.outCh then initReady cfg s
    else initFailed s
  else initFailed s

/-- `INIT dma_ch, timer, out_ch, clk` (R115): refused unless `UNINIT` (R118), else one atomic step. -/
def execInit (dmaCh timer outCh : BitVec 8) (clk : BitVec 32) (s : State) : Host.Outcome State Fault Refusal :=
  whenHostFree s <|
    match s.initState with
    | .uninit => .next (initLoad ⟨dmaCh, timer, outCh, clk⟩ s)
    | .ready => .refused .reInit
    | .failed => .refused .reInit

end Sys2Proof.Machine
end

