-- ==== Sys2Proof/Machine/PixelStore.lean ====
section
/-! DEFINITION. The Pixel Store commands SET, CLEAR and CLEAR_ALL (spec/40_pixel_store.md, R69 to R76). Each meaning is the
command's first micro-step: the index test, then one of its byte writes; the rest is left in `work` (R69, R128d; log 9). -/

namespace Sys2Proof.Machine

/-- Start a Pixel Store command: its first byte write is any of its writes (R69). -/
def startWrites (ws : List PixWrite) (s : State) : State := writeStep (nextChoice s).pick ws s

/-- `SET index, r, g, b` (R71) -/
def execSet (index : Nat) (r g b : Byte) (s : State) : Host.Outcome State Fault Refusal :=
  whenHostFree s <|
    if s.params.n ≤ index then .fault (.indexOutOfRange index)
    else .next (startWrites (setWrites s.params index r g b) s)

/-- `CLEAR index` (R72) -/
def execClear (index : Nat) (s : State) : Host.Outcome State Fault Refusal :=
  whenHostFree s <|
    if s.params.n ≤ index then .fault (.indexOutOfRange index)
    else .next (startWrites (clearWrites index) s)

/-- `CLEAR_ALL` (R73) -/
def execClearAll (s : State) : Host.Outcome State Fault Refusal :=
  whenHostFree s <| .next (startWrites (clearAllWrites s.params) s)

end Sys2Proof.Machine
end

