-- ==== Sys2Proof/Machine/Scheduler.lean ====
section
/-! DEFINITION. The Transfer Scheduler's operations DISPLAY, IRQ_HT and IRQ_TC (spec/42_transfer_scheduler.md, R86 to
R95). -/

namespace Sys2Proof.Machine

/-- `DISPLAY` (R87): refused unless `READY` (R119), else its first micro-step D1; D2 to D5 are left in `work` (log 9). -/
def execDisplay (s : State) : Host.Outcome State Fault Refusal :=
  whenHostFree s <|
    match s.initState with
    | .ready => .next { s with xferEn := false, st := .armed, work := .display .d2 }
    | .uninit => .refused .displayNotReady
    | .failed => .refused .displayNotReady

/-- `IRQ_HT` (R90) -/
def execIrqHt (s : State) : Host.Outcome State Fault Refusal := irqStep .ht s

/-- `IRQ_TC` (R91) -/
def execIrqTc (s : State) : Host.Outcome State Fault Refusal := irqStep .tc s

end Sys2Proof.Machine
end

