-- ==== Sys2Proof/Machine/Streamer.lean ====
section
/-! DEFINITION. The STREAMER's one operation STREAM (spec/43_streamer.md, R105 to R110). -/

namespace Sys2Proof.Machine

/-- Deliver one symbol, advance `rd`, and raise what the new `rd` says (R106). -/
def deliver (s : State) : State :=
  let y := bufRead s s.rd
  raiseFlags { s with ccr := y, out := s.out ++ [y], rd := (s.rd + 1) % s.params.buflen }

/-- `STREAM` (R106): it requires `xfer_en = 1`, and `BufRead(rd)` requires `rd < BUFLEN` (R8). -/
def execStream (s : State) : Host.Outcome State Fault Refusal :=
  if s.xferEn then
    if s.rd < s.params.buflen then .next (deliver s) else .fault (.bufOutOfRange s.rd)
  else .refused .notEnabled

end Sys2Proof.Machine
end

