-- ==== Sys2Proof/Machine/Dispatch.lean ====
section
/-! DEFINITION. exec: one arm per operation of the table, each one call of its meaning. -/

namespace Sys2Proof.Machine

def exec (i : Instr) (s : State) : Host.Outcome State Fault Refusal :=
  match i with
  | .init dmaCh timer outCh clk => Sys2Proof.Machine.execInit dmaCh timer outCh clk s
  | .set index r g b => Sys2Proof.Machine.execSet index r g b s
  | .clear index => Sys2Proof.Machine.execClear index s
  | .clearAll => Sys2Proof.Machine.execClearAll s
  | .display => Sys2Proof.Machine.execDisplay s
  | .irqHt => Sys2Proof.Machine.execIrqHt s
  | .irqTc => Sys2Proof.Machine.execIrqTc s
  | .stream => Sys2Proof.Machine.execStream s
  | .encodeHalf h => Sys2Proof.Machine.execEncodeHalf h s

end Sys2Proof.Machine
end

