-- ==== Sys2Proof/WellFormed.lean ====
section
/-! DEFINITION. Which terms of `Instr` have an encoding: the `index` operand of `SET` and of `CLEAR` fits its 32-bit field
(spec R60, D1). Every other operand's type is its field. -/

namespace Sys2Proof

/-- An index fits the field `w[55:24]` (R60). -/
def indexFits (index : Nat) : Bool := decide (index < 2 ^ 32)

/-- The instruction has an encoding (R58 to R62). -/
def Instr.wellFormed : Instr → Bool
  | .init _ _ _ _ => true
  | .set index _ _ _ => indexFits index
  | .clear index => indexFits index
  | .clearAll => true
  | .display => true
  | .irqHt => true
  | .irqTc => true
  | .stream => true
  | .encodeHalf _ => true

end Sys2Proof
end

