-- ==== Sys2Proof/Decode.lean ====
section
/-! DEFINITION. The operation encodings of spec/30_encoding.md (R58 to R64): a total decoder that rejects by name, the
encoder written from the same tables, the rows of opcode_table.json, and the host's `decodeTableWord`. -/

namespace Sys2Proof

/-- A word that names an operation, in one of the four formats of opcode_table.json: the HOST's command word `H64` (R58),
the event word `EV2` (R61), and the one-bit words `TICK1` and `CALL1` (R62). -/
inductive OpWord where
  | command (w : CmdWord)
  | event (ev : BitVec 2)
  | tick (xferEn : BitVec 1)
  | call (h : BitVec 1)
  deriving DecidableEq, Repr

/-- Why a command word names no operation (R63, R64). -/
inductive DecodeError where
  /-- `op` is not one of 0x01 to 0x05 (R63). -/
  | reservedOpcode
  /-- A must-be-zero field of `CLEAR`, `CLEAR_ALL` or `DISPLAY` is not zero (R64). -/
  | reservedField
  deriving DecidableEq, Repr

/-! ### The fields of the command word (R58, R60) -/

/-- `op = w[63:56]` -/
def opField (w : CmdWord) : BitVec 8 := w.extractLsb' 56 8
/-- `dma_ch = w[55:48]` -/
def dmaChField (w : CmdWord) : BitVec 8 := w.extractLsb' 48 8
/-- `timer = w[47:40]` -/
def timerField (w : CmdWord) : BitVec 8 := w.extractLsb' 40 8
/-- `out_ch = w[39:32]` -/
def outChField (w : CmdWord) : BitVec 8 := w.extractLsb' 32 8
/-- `clk = w[31:0]` -/
def clkField (w : CmdWord) : BitVec 32 := w.extractLsb' 0 32
/-- `index = w[55:24]`, read as a natural -/
def indexField (w : CmdWord) : Nat := (w.extractLsb' 24 32).toNat
/-- `r = w[23:16]` -/
def rField (w : CmdWord) : Byte := w.extractLsb' 16 8
/-- `g = w[15:8]` -/
def gField (w : CmdWord) : Byte := w.extractLsb' 8 8
/-- `b = w[7:0]` -/
def bField (w : CmdWord) : Byte := w.extractLsb' 0 8
/-- `w[23:0]`, zero in `CLEAR` (R64) -/
def clearReserved (w : CmdWord) : BitVec 24 := w.extractLsb' 0 24
/-- `w[55:0]`, zero in `CLEAR_ALL` and `DISPLAY` (R64) -/
def bareReserved (w : CmdWord) : BitVec 56 := w.extractLsb' 0 56

/-- The HOST command a word names (R59, R60), or why it names none (R63, R64). -/
def decodeCommand (w : CmdWord) : Except DecodeError Instr :=
  if opField w = 0x01#8 then
    .ok (.init (dmaChField w) (timerField w) (outChField w) (clkField w))
  else if opField w = 0x02#8 then
    .ok (.set (indexField w) (rField w) (gField w) (bField w))
  else if opField w = 0x03#8 then
    if clearReserved w = 0#24 then .ok (.clear (indexField w)) else .error .reservedField
  else if opField w = 0x04#8 then
    if bareReserved w = 0#56 then .ok .clearAll else .error .reservedField
  else if opField w = 0x05#8 then
    if bareReserved w = 0#56 then .ok .display else .error .reservedField
  else .error .reservedOpcode

/-- The IRQ steps an event word enables: `IRQ_HT` by `ev[0]`, `IRQ_TC` by `ev[1]` (R61). -/
def decodeEvent (ev : BitVec 2) : List Instr :=
  (if ev.getLsbD 0 then [.irqHt] else []) ++ (if ev.getLsbD 1 then [.irqTc] else [])

/-- `STREAM` is enabled by the word `xfer_en` (R62). -/
def decodeTick (xferEn : BitVec 1) : List Instr :=
  if xferEn.getLsbD 0 then [.stream] else []

/-- The half that a one-bit operand `h` names (R62). -/
def halfOfBit (h : BitVec 1) : Half := if h.getLsbD 0 then .h1 else .h0

/-- Every operation a word names. A command word names one or is refused; an event word names as many as it has flags
set (R61). -/
def decode : OpWord → Except DecodeError (List Instr)
  | .command w => (decodeCommand w).map fun i => [i]
  | .event ev => .ok (decodeEvent ev)
  | .tick x => .ok (decodeTick x)
  | .call h => .ok [.encodeHalf (halfOfBit h)]

/-! ### The encoder -/

/-- The one-bit operand of `ENCODE_HALF` (R62). -/
def halfBit : Half → BitVec 1
  | .h0 => 0#1
  | .h1 => 1#1

/-- The word of a well-formed instruction (R59 to R62). -/
def encode : Instr → OpWord
  | .init dmaCh timer outCh clk => .command (0x01#8 ++ dmaCh ++ timer ++ outCh ++ clk)
  | .set index r g b => .command (0x02#8 ++ BitVec.ofNat 32 index ++ r ++ g ++ b)
  | .clear index => .command (0x03#8 ++ BitVec.ofNat 32 index ++ 0#24)
  | .clearAll => .command (0x04#8 ++ 0#56)
  | .display => .command (0x05#8 ++ 0#56)
  | .irqHt => .event 0b01#2
  | .irqTc => .event 0b10#2
  | .stream => .tick 1#1
  | .encodeHalf h => .call (halfBit h)

/-- The bits of a word, as the number opcode_table.json writes. -/
def OpWord.bits : OpWord → BitVec 64
  | .command w => w
  | .event ev => ev.setWidth 64
  | .tick x => x.setWidth 64
  | .call h => h.setWidth 64

/-- A row of opcode_table.json: its mnemonic, its pattern (the table's "match") and its mask. -/
structure TableRow where
  mnemonic : String
  pattern : BitVec 64
  mask : BitVec 64
  deriving DecidableEq, Repr

/-- The row of an instruction (opcode_table.json; R60 to R62). `ENCODE_HALF` is given by its operand bit alone, so its row
fixes no bit. -/
def tableRow : Instr → TableRow
  | .init _ _ _ _ => ⟨"INIT", 0x0100000000000000#64, 0xFF00000000000000#64⟩
  | .set _ _ _ _ => ⟨"SET", 0x0200000000000000#64, 0xFF00000000000000#64⟩
  | .clear _ => ⟨"CLEAR", 0x0300000000000000#64, 0xFF00000000FFFFFF#64⟩
  | .clearAll => ⟨"CLEAR_ALL", 0x0400000000000000#64, 0xFFFFFFFFFFFFFFFF#64⟩
  | .display => ⟨"DISPLAY", 0x0500000000000000#64, 0xFFFFFFFFFFFFFFFF#64⟩
  | .irqHt => ⟨"IRQ_HT", 0x1#64, 0x1#64⟩
  | .irqTc => ⟨"IRQ_TC", 0x2#64, 0x2#64⟩
  | .stream => ⟨"STREAM", 0x1#64, 0x1#64⟩
  | .encodeHalf _ => ⟨"ENCODE_HALF", 0x0#64, 0x0#64⟩

/-! ### The host's view of the table -/

/-- The word of `nbits` bits `w`, given its format. 64 bits are a command word. Fewer bits leave the format open, since the
table numbers the bits of three ports (event, tick, call) alike: one bit set to 1 is the tick; a zero word is `ENCODE_HALF`
of half 0; any other short word is an event word (log 15). -/
def tableOpWord (nbits w : Nat) : OpWord :=
  if 64 ≤ nbits then .command (BitVec.ofNat 64 w)
  else if w = 0 then .call 0#1
  else if nbits ≤ 1 then .tick 1#1
  else .event (BitVec.ofNat 2 w)

/-- The instruction the decoder reads from an instruction whose bits are `w`, numbered as opcode_table.json numbers them. Of
an event word with both flags set, the first the decoder names (R61, R132). -/
def decodeTableWord (nbits w : Nat) : Option Instr :=
  match decode (tableOpWord nbits w) with
  | .ok (i :: _) => some i
  | .ok [] => none
  | .error _ => none

end Sys2Proof
end

