-- ==== Sys2Proof/Machine/Schedule.lean ====
section
/-! DEFINITION. Which agent may step (spec R128 to R132), the choice among the enabled turns, and what places a word where
the next step takes it from. -/

namespace Sys2Proof.Machine

/-- The HOST has a micro-step to do: one of its command in progress, or the first of its next command (R128d). -/
def hostHasWork (s : State) : Bool :=
  match s.work with
  | .idle => !s.cmds.isEmpty
  | .writes _ => true
  | .display _ => true

/-- A turn is enabled (R128); the HOST is held while a flag is pending (R129). -/
def turnEnabled (s : State) : Turn → Bool
  | .host => hostHasWork s && !anyPending s
  | .irqHt => s.pendHalf
  | .irqTc => s.pendFull
  | .stream => s.xferEn

/-- Every enabled turn, in the order of R128. -/
def enabledTurns (s : State) : List Turn :=
  [Turn.stream, Turn.irqHt, Turn.irqTc, Turn.host].filter (turnEnabled s)

/-- The turn the next step takes: the one the schedule names if it is enabled, else the first enabled one (log 3). None
when no turn is enabled. -/
def nextTurn (s : State) : Option Turn :=
  if turnEnabled s (nextChoice s).turn then some (nextChoice s).turn else (enabledTurns s).head?

/-- The record of R30 stops the machine: in a state with a fault no step is enabled (R128), and of a refused run nothing is
claimed (R122). -/
def stopped (s : State) : Option (Host.Outcome State Fault Refusal) :=
  match s.fault with
  | some r => some (.fault r)
  | none => if s.refused then some (.refused .alreadyRefused) else none

/-- A command word that names no command is refused by name (R63, R64). -/
def refusalOf : DecodeError → Refusal
  | .reservedOpcode => .reservedOpcode
  | .reservedField => .reservedField

/-- A micro-step of the HOST's command in progress (R69, R87); `encode` is the `ENCODE_HALF` that D3 and D4 call. -/
def hostMicroWith (encode : Half → State → Host.Outcome State Fault Refusal) (s : State) :
    Host.Outcome State Fault Refusal :=
  match s.work with
  | .idle => .next s
  | .writes ws => .next (writeStep (nextChoice s).pick ws s)
  | .display .d2 => .next (displayD2 s)
  | .display .d3 => onNext (fun t => { t with work := .display .d4 }) (encode .h0 s)
  | .display .d4 => onNext (fun t => { t with work := .display .d5 }) (encode .h1 s)
  | .display .d5 => .next (displayD5 s)

/-- Let the next choice be turn `t`, taking the place of the next choice given as data, and lift a stop's record. -/
def scheduleNext (t : Turn) (s : State) : State :=
  { s with sched := ⟨t, 0⟩ :: s.sched.tail, fault := none, refused := false }

/-- Place a word where the next step takes its operation from, with all that this needs: a command word becomes the HOST's
next command, no flag holding it and no command before it; an event word becomes the two flags; a tick becomes `xfer_en`; a
call becomes the micro-step of `DISPLAY` that makes it (log 2, log 14). -/
def placeWord (s : State) : OpWord → State
  | .command w =>
    { scheduleNext .host s with cmds := w :: s.cmds.tail, work := .idle, pendHalf := false, pendFull := false }
  | .event ev =>
    { scheduleNext (if ev.getLsbD 0 then .irqHt else .irqTc) s with
      pendHalf := ev.getLsbD 0, pendFull := ev.getLsbD 1 }
  | .tick x => { scheduleNext .stream s with xferEn := x.getLsbD 0 }
  | .call h =>
    { scheduleNext .host s with
      work := .display (if h.getLsbD 0 then .d4 else .d3), pendHalf := false, pendFull := false }

end Sys2Proof.Machine
end

