-- ==== Sys2Proof/Machine/Step.lean ====
section
/-! DEFINITION. One step of the machine: the turn the schedule takes among the enabled ones (spec R128), run to its outcome;
and the host's way to place one instruction where the next step runs it. -/

namespace Sys2Proof.Machine

/-- The HOST's turn: a micro-step of its command in progress, or the first micro-step of its next command, decoded from its
word (R128d). -/
def hostTurn (s : State) : Host.Outcome State Fault Refusal :=
  match s.work with
  | .idle =>
    match s.cmds with
    | [] => .next s
    | w :: rest =>
      match decodeCommand w with
      | .ok i => exec i { s with cmds := rest }
      | .error e => .refused (refusalOf e)
  | .writes _ => hostMicroWith (fun h => exec (.encodeHalf h)) s
  | .display _ => hostMicroWith (fun h => exec (.encodeHalf h)) s

/-- A turn run to its outcome. -/
def runTurn (t : Turn) (s : State) : Host.Outcome State Fault Refusal :=
  match t with
  | .host => hostTurn s
  | .irqHt => exec .irqHt s
  | .irqTc => exec .irqTc s
  | .stream => exec .stream s

/-- One step (R128): a stop's record stays a stop; with no turn enabled the block waits, unchanged (log 5); else the next
turn runs and uses up its choice. -/
def step (s : State) : Host.Outcome State Fault Refusal :=
  match stopped s with
  | some o => o
  | none =>
    match nextTurn s with
    | none => .next s
    | some t => onNext dropChoice (runTurn t s)

/-- The state in which the next step runs the instruction whose table bits are `w` (log 2, log 14, log 15). -/
def State.withFetchWord (s : State) (nbits w : Nat) : State := placeWord s (tableOpWord nbits w)

end Sys2Proof.Machine
end

