-- ==== Sys2Proof/Safety.lean ====
section
/-! DEFINITION. What claims are stated in: a running machine, the invariant of the machine (spec R31, R52 and what they
rest on), the frame of a display request (R96 to R101), the end of a run (R158), and the views used to compare states. -/

namespace Sys2Proof.Machine

/-- No fault is recorded and nothing was refused: the premise of every claim (R31, R121, R122). -/
def State.Running (s : State) : Prop := s.fault = none ∧ s.refused = false

/-- Every `BUF` byte of `[lo, hi)` has been written since reset (R24). -/
def bufFilled (s : State) (lo hi : Nat) : Prop :=
  ∀ j, lo ≤ j → j < hi → (Memory.get s.buf j).isSome = true

/-- Where `DISPLAY` is between D1 and D5 (R87): what the prefill has done so far. -/
def displayProgress (s : State) : DisplayStep → Prop
  | .d2 => True
  | .d3 => s.cursor = 0
  | .d4 => s.cursor = s.params.b ∧ bufFilled s 0 s.params.half
  | .d5 => s.cursor = 2 * s.params.b ∧ bufFilled s 0 s.params.buflen

/-- The invariant of the machine. Clauses (a) to (f) of R31 are named; the others say what they and R24, R52, R110 rest
on. -/
structure State.Inv (s : State) : Prop where
  params_ok : s.params.Ok
  pix_wf : Memory.wf s.pix
  buf_wf : Memory.wf s.buf
  /-- PIX has `3 * N` bytes (R35). -/
  pix_bound : ∀ c ∈ s.pix, c.1 < 3 * s.params.n
  /-- BUF has `48 * B` bytes (R37). -/
  buf_bound : ∀ c ∈ s.buf, c.1 < s.params.buflen
  /-- `rd` is in `[0, BUFLEN)` (R17). -/
  rd_range : s.rd < s.params.buflen
  /-- R31 (a) -/
  enabled_iff_streaming : s.xferEn = true ↔ s.st = .streaming
  /-- R31 (b) -/
  quiet_when_disabled : s.xferEn = false → s.pendHalf = false ∧ s.pendFull = false
  /-- R31 (c), R103 -/
  cursor_bound : s.st = .streaming ∨ s.st = .done →
    s.params.b ∣ s.cursor ∧ 2 * s.params.b ≤ s.cursor ∧ s.cursor ≤ (s.params.signals + 1) * s.params.b
  /-- R31 (d) -/
  done_cursor : s.st = .done → s.params.threshold ≤ s.cursor
  /-- R31 (e) -/
  not_ready_idle : s.initState ≠ .ready → s.st = .idle ∧ s.xferEn = false
  /-- R31 (f) -/
  buf_symbols : ∀ c ∈ s.buf, c.2 = s.params.highBit ∨ c.2 = s.params.lowBit
  /-- `ARMED` is left only by D5 (R86). -/
  armed_iff_display : s.st = .armed ↔ ∃ d, s.work = .display d
  display_progress : ∀ d, s.work = .display d → displayProgress s d
  /-- Every byte write still to be done names a pixel of the strip (R45). -/
  writes_in_range : ∀ ws, s.work = .writes ws → ws ≠ [] ∧ ∀ w ∈ ws, w.index < s.params.n
  /-- No byte of `buf` is read before it is written (R24). -/
  filled : s.st = .streaming ∨ s.st = .done → bufFilled s 0 s.params.buflen
  /-- Both flags set is an overrun (R110). -/
  both_pending : s.pendHalf = true → s.pendFull = true → s.overrun = true
  /-- With no overrun, the half a flag announces as free is not the one being read (R52, R110). -/
  half_flag_place : s.overrun = false → s.pendHalf = true → s.params.half ≤ s.rd
  full_flag_place : s.overrun = false → s.pendFull = true → s.rd < s.params.half
  mark_in_out : s.outMark ≤ s.out.length

/-! ### The frame of a display request (R96 to R101) -/

/-- The HOST issues nothing more and has nothing in progress. -/
def State.HostSilent (s : State) : Prop := s.cmds = [] ∧ s.work = .idle

/-- `slot(0) ++ … ++ slot(m-1)` of the Pixel Store as it stands: the first `m` slots of the frame `F` (R99). -/
def frameSlots (s : State) (m : Nat) : List Byte := (List.range m).flatMap (slotSymbols s)

/-- How many symbols of the current display request have been delivered (R29b). -/
def delivered (s : State) : Nat := s.out.length - s.outMark

/-- How many refills the current display request has had: `cursor = (j + 2) * B` after the `j`-th (R96). -/
def refills (s : State) : Nat := s.cursor / s.params.b - 2

/-- A display request under way or ended, the HOST silent since its D5, no deadline missed: what has been delivered is a
prefix of the frame; the buffer holds the last two halves encoded; a flag is pending exactly when one more half has been
left than refilled, and it is the one of that half (R96, R99, R101); at the end `K` halves and fewer than `HALF` more
symbols have been delivered and the counts are those of R98. -/
structure FrameInv (s : State) : Prop where
  inv : s.Inv
  silent : s.HostSilent
  on_time : s.overrun = false
  live : s.st = .streaming ∨ s.st = .done
  content : s.out.drop s.outMark = (frameSlots s s.cursor).take (delivered s)
  enc_calls : s.encCalls = s.cursor / s.params.b
  place : s.st = .streaming → s.rd = delivered s % s.params.buflen
  no_disable : s.st = .streaming → s.disableCnt = 0
  resident : s.st = .streaming → ∀ i, i < s.cursor → s.cursor ≤ i + 2 * s.params.b → ∀ q, q < 24 →
    some (bufRead s (24 * (i % (2 * s.params.b)) + q)) = (slotSymbols s i)[q]?
  pace : s.st = .streaming →
    refills s ≤ delivered s / s.params.half ∧ delivered s / s.params.half ≤ refills s + 1
  half_flag : s.st = .streaming →
    (s.pendHalf = true ↔ delivered s / s.params.half = refills s + 1 ∧ refills s % 2 = 0)
  full_flag : s.st = .streaming →
    (s.pendFull = true ↔ delivered s / s.params.half = refills s + 1 ∧ refills s % 2 = 1)
  ended : s.st = .done →
    s.disableCnt = 1 ∧ s.cursor = (s.params.signals + 1) * s.params.b ∧
      delivered s / s.params.half = s.params.signals

/-- The schedule in which every IRQ step is prompt, from the `k`-th signal on for `m` signals: `HALF` STREAM steps, then the
IRQ step of that signal, `IRQ_HT` for odd `k` (R97, R99 with `j = 0`). -/
def promptSchedule (p : Params) (k : Nat) : Nat → List Choice
  | 0 => []
  | m + 1 =>
    List.replicate p.half ⟨.stream, 0⟩ ++ ⟨if k % 2 = 1 then .irqHt else .irqTc, 0⟩ :: promptSchedule p (k + 1) m

/-! ### Executions and fairness (R128, R131) -/

/-- An execution: at every instant one step that answers a next state. The schedule is an input (R33), so before each step it
may be given anew; every sequence of enabled steps is an execution (R128). -/
def Execution (σ : Nat → State) : Prop :=
  ∀ i, ∃ t sched, step (σ i) = .next t ∧ σ (i + 1) = { t with sched := sched }

/-- Weak fairness for one turn: if from some instant on its step stays enabled, it is taken from that instant on (R131). -/
def WeaklyFair (tn : Turn) (σ : Nat → State) : Prop :=
  ∀ i, (∀ j, i ≤ j → turnEnabled (σ j) tn = true) → ∃ j, i ≤ j ∧ nextTurn (σ j) = some tn

/-- The two assumptions that stand in for time (R131): weak fairness for the IRQ steps, and for `STREAM`. They bound no number
of `STREAM` steps before an IRQ step. -/
structure Fair (σ : Nat → State) : Prop where
  irq_ht : WeaklyFair .irqHt σ
  irq_tc : WeaklyFair .irqTc σ
  stream : WeaklyFair .stream σ

/-- The display request under way at instant `i` is not re-armed (R95, R131): no later `DISPLAY` reaches its D1. -/
def NotRearmed (σ : Nat → State) (i : Nat) : Prop := ∀ j, i ≤ j → (σ j).st ≠ .armed

/-- The end of a run (R158). -/
def State.RunEnded (s : State) : Prop :=
  s.HostSilent ∧ (s.st = .idle ∨ s.st = .done) ∧ s.xferEn = false ∧ s.pendHalf = false ∧ s.pendFull = false ∧
    s.fault = none ∧ s.refused = false

/-- Half `h` of `t`'s buffer holds the `B` slots that `ENCODE_HALF h` writes when it starts from `s`, and every `BUF` byte
outside that half reads in `t` as it does in `s` (R82, R84). -/
def HalfEncoded (h : Half) (s t : State) : Prop :=
  (∀ k, k < s.params.b → ∀ q, q < 24 →
    some (bufRead t (slotAddr s.params h k + q)) = (slotSymbols s (s.cursor + k))[q]?) ∧
  ∀ j, j < halfBase s.params h ∨ halfBase s.params h + s.params.half ≤ j → bufRead t j = bufRead s j

/-! ### Views that compare states -/

/-- The state without the ghost state of R29. -/
def eraseGhost (s : State) : State :=
  { s with out := [], outMark := 0, encCalls := 0, disableCnt := 0, overrun := false }

/-- The state without the schedule and the count of free values taken: what is left is the block and the HOST's program. -/
def forgetChoices (s : State) : State := { s with sched := [], fresh := 0 }

/-- `DISPLAY` as the one atomic step R88 says it is equivalent to. -/
def displayAtomic (s : State) : State :=
  displayD5 (encodeHalf .h1 (encodeHalf .h0
    { s with xferEn := false, cursor := 0, encCalls := 0, disableCnt := 0 }))

/-- From `s` to `t` one byte write has been done, `w` of `ws`, the others being left to do, and nothing else has changed
(R69). -/
def WroteOne (ws : List PixWrite) (w : PixWrite) (s t : State) : Prop :=
  ∃ rest, (w :: rest).Perm ws ∧
    t = { s with pix := Memory.put s.pix (pixAddr w.index w.chan) w.value, work := workOf rest }

/-- The first micro-step of the Pixel Store command `i` does one of the writes `ws`, and, by the schedule's pick, any of them
(R69). -/
def StartsWithAnyWrite (i : Instr) (ws : List PixWrite) (s : State) : Prop :=
  (∃ w t, exec i s = .next t ∧ WroteOne ws w s t) ∧
  ∀ w ∈ ws, ∃ k, ∀ tn rest, ∃ t, exec i { s with sched := ⟨tn, k⟩ :: rest } = .next t ∧
    WroteOne ws w { s with sched := ⟨tn, k⟩ :: rest } t

/-- At most `k` further byte-write micro-steps of the HOST's Pixel Store command, nothing falling between them (R69). -/
def uninterrupted : Nat → State → State
  | 0, s => s
  | k + 1, s =>
    match s.work with
    | .idle => s
    | .display _ => s
    | .writes ws => uninterrupted k (dropChoice (writeStep (nextChoice s).pick ws s))

/-! ### Symbols back to bytes (R66) -/

/-- `bit(HIGH_BIT) = 1` and `bit(LOW_BIT) = 0` (R66) -/
def symBit (p : Params) (y : Byte) : Nat := if y = p.highBit then 1 else 0

/-- `sum over q in 0..7 of bit(y[q]) * 2^(7-q)` (R66), most significant symbol first -/
def symsValue (p : Params) (ys : List Byte) : Nat := ys.foldl (fun v y => 2 * v + symBit p y) 0

/-- The bytes (r, g, b) of a slot's 24 symbols (R66). -/
def decodeSlot (p : Params) (ys : List Byte) : Byte × Byte × Byte :=
  (BitVec.ofNat 8 (symsValue p ((ys.drop 8).take 8)),
   BitVec.ofNat 8 (symsValue p (ys.take 8)),
   BitVec.ofNat 8 (symsValue p ((ys.drop 16).take 8)))

end Sys2Proof.Machine
end

