-- ==== Sys2Proof/Certificates/Slice0/Obligations.lean ====
section
/-! DEFINITION. The statements for the provers, from the numbered rules of spec/. OBLIGATIONS.json lists them. -/

open Sys2Proof Sys2Proof.Machine

/-! ### Encodings (spec/30_encoding.md) -/

/-- Every well-formed operation's word decodes to that operation and no other (R58 to R62). -/
def Obligations.EncodeDecodeRoundTrip : Prop :=
  ∀ i : Instr, i.wellFormed = true → decode (encode i) = .ok [i]

/-- A command word that decodes has one meaning, and that meaning has no other word (R58 to R60). -/
def Obligations.DecodedCommandHasOneWord : Prop :=
  ∀ (w : CmdWord) (i : Instr), decodeCommand w = .ok i → i.wellFormed = true ∧ encode i = .command w

/-- Words written out from R59 to R62 decode to the operations they stand for: every field of each of the nine rows. -/
def Obligations.ListedWordsDecode : Prop :=
  decodeCommand 0x01010201044AA200#64 = .ok (.init 1 2 1 72000000) ∧
  decodeCommand 0x020000003B505152#64 = .ok (.set 59 0x50 0x51 0x52) ∧
  decodeCommand 0x0300000003000000#64 = .ok (.clear 3) ∧
  decodeCommand 0x0400000000000000#64 = .ok .clearAll ∧
  decodeCommand 0x0500000000000000#64 = .ok .display ∧
  decode (.event 0b01#2) = .ok [.irqHt] ∧
  decode (.event 0b10#2) = .ok [.irqTc] ∧
  decode (.tick 1#1) = .ok [.stream] ∧
  decode (.call 0#1) = .ok [.encodeHalf .h0] ∧
  decode (.call 1#1) = .ok [.encodeHalf .h1]

/-- R63 (the spec's decision D28): a command word whose `op` is not one of 0x01 to 0x05, and only such a word, is
refused as ReservedOpcode, by the decoder and by the HOST's turn that would issue it. -/
def Obligations.ReservedOpcodeRefused : Prop :=
  ∀ w : CmdWord,
    (decodeCommand w = .error .reservedOpcode ↔ ¬ (1 ≤ (opField w).toNat ∧ (opField w).toNat ≤ 5)) ∧
    ∀ (s : State) (rest : List CmdWord), s.work = .idle → s.cmds = w :: rest →
      ¬ (1 ≤ (opField w).toNat ∧ (opField w).toNat ≤ 5) → runTurn .host s = .refused .reservedOpcode

/-- R64 (the spec's decision D28): `CLEAR` with `w[23:0] != 0`, `CLEAR_ALL` and `DISPLAY` with `w[55:0] != 0`, and no
other word, are refused as ReservedField; every word of `INIT` and of `SET` is a command. -/
def Obligations.ReservedFieldRefused : Prop :=
  ∀ w : CmdWord,
    (decodeCommand w = .error .reservedField ↔
      (opField w = 3#8 ∧ w.toNat % 2 ^ 24 ≠ 0) ∨ ((opField w = 4#8 ∨ opField w = 5#8) ∧ w.toNat % 2 ^ 56 ≠ 0)) ∧
    (∀ (s : State) (rest : List CmdWord), s.work = .idle → s.cmds = w :: rest →
      decodeCommand w = .error .reservedField → runTurn .host s = .refused .reservedField) ∧
    (opField w = 1#8 ∨ opField w = 2#8 → ∃ i, decodeCommand w = .ok i)

/-- R61, R62: the IRQ steps and the STREAM step that are enabled are those the event word and the tick word select. -/
def Obligations.EnablingWordsSelect : Prop :=
  ∀ s : State,
    (turnEnabled s .irqHt = true ↔ Instr.irqHt ∈ decodeEvent (eventWord s)) ∧
    (turnEnabled s .irqTc = true ↔ Instr.irqTc ∈ decodeEvent (eventWord s)) ∧
    (turnEnabled s .stream = true ↔ Instr.stream ∈ decodeTick (tickWord s))

/-! ### The Bit Encoder (spec/41_bit_encoder.md) -/

/-- R70: the gamma function, and its monotonicity. -/
def Obligations.GammaFunction : Prop :=
  ∀ p : Params,
    (p.gammaEn = true → ∀ v : Byte, gcorr p v = p.gamma[v.toFin]) ∧
    (p.gammaEn = false → ∀ v : Byte, gcorr p v = v) ∧
    (p.Ok → ∀ a b : Byte, a ≤ b → gcorr p a ≤ gcorr p b)

/-- R77, R78: element `k` of `ENC_BYTE(v)` is `SYM(v[7-k])`, and `v[7-k]` is `(v div 2^(7-k)) mod 2`. -/
def Obligations.EncByteIsMsbFirst : Prop :=
  ∀ (p : Params) (v : Byte),
    sym p true = p.highBit ∧ sym p false = p.lowBit ∧ (encByte p v).length = 8 ∧
    ∀ k, k < 8 → (encByte p v)[k]? = some (sym p (v.getLsbD (7 - k))) ∧
      v.getLsbD (7 - k) = decide (v.toNat / 2 ^ (7 - k) % 2 = 1)

/-- R54: symbol `q` of a pixel slot comes from channel g, r or b by `q < 8`, `q < 16`, and from bit `7 - (q mod 8)`. -/
def Obligations.PixelSlotLayout : Prop :=
  ∀ (p : Params) (r g b : Byte),
    (encPixel p r g b).length = 24 ∧
    ∀ q, q < 24 →
      (encPixel p r g b)[q]? = some (sym p ((if q < 8 then g else if q < 16 then r else b).getLsbD (7 - q % 8)))

/-- R55: the slot of a cursor value `>= N` is 24 copies of `LOW_BIT`, bit for bit the slot of a black pixel, and 24
bytes of value 0 only if `LOW_BIT` is 0. -/
def Obligations.TrailingSlotIsBlackPixel : Prop :=
  ∀ (s : State) (idx : Nat), s.params.n ≤ idx →
    slotSymbols s idx = List.replicate 24 s.params.lowBit ∧
    slotSymbols s idx = encPixel s.params 0 0 0 ∧
    (slotSymbols s idx = List.replicate 24 0 ↔ s.params.lowBit = 0)

/-- R66 (derived by the spec from R54 and R57): a pixel slot decodes back to its bytes, so the slot format is injective,
and a trailing slot decodes to (0, 0, 0). -/
def Obligations.SlotDecodesToItsBytes : Prop :=
  ∀ p : Params, p.highBit ≠ p.lowBit →
    (∀ r g b : Byte, decodeSlot p (encPixel p r g b) = (r, g, b)) ∧
    (∀ r g b r' g' b' : Byte, encPixel p r g b = encPixel p r' g' b' → r = r' ∧ g = g' ∧ b = b') ∧
    decodeSlot p (trailingSlot p) = (0, 0, 0)

/-- R82, R84: `ENCODE_HALF h` always completes. Its `B` slots, for the cursor values from `cursor` on, fill half `h`; no
byte outside that half, no register but the cursor, and of the ghost state only `enc_calls` changes. -/
def Obligations.EncodeHalfFillsOneHalf : Prop :=
  ∀ (s : State) (h : Half), ∃ t, exec (.encodeHalf h) s = .next t ∧ HalfEncoded h s t ∧
    t = { s with buf := t.buf, cursor := s.cursor + s.params.b, encCalls := s.encCalls + 1 }

/-- R83 (derived by the spec from R80): what `ENCODE_HALF` writes depends on no Pixel Store byte of an index `>= N`. -/
def Obligations.EncoderReadsOnlyRealPixels : Prop :=
  ∀ (s s' : State) (h : Half), s'.params = s.params → s'.cursor = s.cursor → s'.buf = s.buf →
    (∀ i, i < s.params.n → ∀ c, pixRead s' i c = pixRead s i c) →
    ∀ t t', exec (.encodeHalf h) s = .next t → exec (.encodeHalf h) s' = .next t' →
      t'.buf = t.buf ∧ t'.cursor = t.cursor

/-! ### The Pixel Store (spec/40_pixel_store.md) -/

/-- R69, R71 to R73: the first micro-step of `SET`, `CLEAR` and `CLEAR_ALL` does one of the command's byte writes, and, as the
schedule picks, any one of them; it leaves the others to be done, and changes nothing else. -/
def Obligations.PixelCommandsStartWithOneWrite : Prop :=
  ∀ s : State, s.work = .idle →
    (∀ (index : Nat) (r g b : Byte), index < s.params.n →
      StartsWithAnyWrite (.set index r g b) (setWrites s.params index r g b) s) ∧
    (∀ index : Nat, index < s.params.n → StartsWithAnyWrite (.clear index) (clearWrites index) s) ∧
    (1 ≤ s.params.n → StartsWithAnyWrite .clearAll (clearAllWrites s.params) s)

/-- R69, R128 (d): in the middle of a Pixel Store command the HOST's next step does one of the writes left, and, as the
schedule picks, any one of them; the others are left to be done, and nothing else changes. -/
def Obligations.RemainingWritesAreDoneInAnyOrder : Prop :=
  ∀ (s : State) (ws : List PixWrite), s.Running → anyPending s = false → s.work = .writes ws → ws ≠ [] →
    (nextTurn s = some .host → ∃ w t, step s = .next (dropChoice t) ∧ WroteOne ws w s t) ∧
    ∀ w ∈ ws, ∃ k, ∀ rest, ∃ t, step { s with sched := ⟨.host, k⟩ :: rest } = .next t ∧
      WroteOne ws w { s with sched := rest } t

/-- R71, R75: `SET`, its three byte writes done in whatever order, leaves the gamma-mapped bytes in pixel `index`, every
other `PIX` byte and everything else unchanged, whatever `st` and `init_state` are. -/
def Obligations.SetStoresThePixel : Prop :=
  ∀ (s : State) (index : Nat) (r g b : Byte), s.work = .idle → index < s.params.n →
    ∃ t, exec (.set index r g b) s = .next t ∧
      ∃ u, u = uninterrupted 2 (dropChoice t) ∧
        pixRead u index .r = gcorr s.params r ∧ pixRead u index .g = gcorr s.params g ∧
        pixRead u index .b = gcorr s.params b ∧
        (∀ a, a ≠ pixAddr index .r → a ≠ pixAddr index .g → a ≠ pixAddr index .b → pixReadAt u a = pixReadAt s a) ∧
        forgetChoices u = { forgetChoices s with pix := u.pix }

/-- R72, R75: `CLEAR` leaves 0 in the three bytes of pixel `index`, gamma or no gamma, and changes nothing else. -/
def Obligations.ClearZeroesThePixel : Prop :=
  ∀ (s : State) (index : Nat), s.work = .idle → index < s.params.n →
    ∃ t, exec (.clear index) s = .next t ∧
      ∃ u, u = uninterrupted 2 (dropChoice t) ∧
        (∀ c, pixRead u index c = 0) ∧
        (∀ a, a ≠ pixAddr index .r → a ≠ pixAddr index .g → a ≠ pixAddr index .b → pixReadAt u a = pixReadAt s a) ∧
        forgetChoices u = { forgetChoices s with pix := u.pix }

/-- R73, R75: `CLEAR_ALL`, its `3 * N` byte writes done in whatever order, leaves 0 in every byte of every pixel and
changes nothing else. -/
def Obligations.ClearAllZeroesEveryPixel : Prop :=
  ∀ s : State, s.work = .idle → 1 ≤ s.params.n →
    ∃ t, exec .clearAll s = .next t ∧
      ∃ u, u = uninterrupted (3 * s.params.n - 1) (dropChoice t) ∧
        (∀ i, i < s.params.n → ∀ c, pixRead u i c = 0) ∧
        (∀ a, 3 * s.params.n ≤ a → pixReadAt u a = pixReadAt s a) ∧
        forgetChoices u = { forgetChoices s with pix := u.pix }

/-- R69: when no other agent steps inside a Pixel Store command, the order of its byte writes leaves no trace: two
schedules end in the same Pixel Store. -/
def Obligations.WriteOrderLeavesNoTrace : Prop :=
  ∀ (s : State) (i : Instr) (c c' : List Choice) (f f' : Nat) (t t' : State),
    Memory.wf s.pix → 1 ≤ s.params.n →
    ((∃ index r g b, i = .set index r g b) ∨ (∃ index, i = .clear index) ∨ i = .clearAll) →
    exec i { s with sched := c, fresh := f } = .next t →
    exec i { s with sched := c', fresh := f' } = .next t' →
    (uninterrupted (3 * s.params.n) (dropChoice t)).pix = (uninterrupted (3 * s.params.n) (dropChoice t')).pix

/-- R124 (the spec's decision D19): `SET` and `CLEAR` with `index >= N` raise IndexOutOfRange with that index, and no
next state exists. -/
def Obligations.IndexOutOfRangeFaults : Prop :=
  ∀ (s : State) (index : Nat), s.work = .idle → s.params.n ≤ index →
    (∀ r g b : Byte, exec (.set index r g b) s = .fault (.indexOutOfRange index)) ∧
    exec (.clear index) s = .fault (.indexOutOfRange index)

/-! ### INIT (spec/44_init.md) -/

/-- R115: the first `INIT`, all operands valid, loads the configuration and makes the block READY, and changes nothing
else. -/
def Obligations.InitLoadsConfiguration : Prop :=
  ∀ (s : State) (dmaCh timer outCh : BitVec 8) (clk : BitVec 32), s.work = .idle → s.initState = .uninit →
    dmaCh ∈ s.params.dmaChValid → s.params.clkThreshold < clk.toNat → 1 ≤ outCh.toNat → outCh.toNat ≤ 4 →
    exec (.init dmaCh timer outCh clk) s =
      .next { s with
        cfg := ⟨dmaCh, timer, outCh, clk⟩, st := .idle, xferEn := false, pendHalf := false, pendFull := false,
        status := .ok, initState := .ready }

/-- R115, R117, R123: the first `INIT` with some operand invalid reports STATUS_CONFIG_ERROR and FAILED, leaves some
value in the configuration registers (the model's free value, log 10), and changes nothing else of the block. -/
def Obligations.InitReportsBadOperand : Prop :=
  ∀ (s : State) (dmaCh timer outCh : BitVec 8) (clk : BitVec 32), s.work = .idle → s.initState = .uninit →
    ¬ (dmaCh ∈ s.params.dmaChValid ∧ s.params.clkThreshold < clk.toNat ∧ 1 ≤ outCh.toNat ∧ outCh.toNat ≤ 4) →
    ∃ cfg fresh, exec (.init dmaCh timer outCh clk) s =
      .next { s with cfg := cfg, fresh := fresh, status := .configError, initState := .failed }

/-- R118 (the spec's decision D20): an `INIT` when `init_state` is READY or FAILED is refused as ReInit, whatever its
operands. -/
def Obligations.SecondInitRefused : Prop :=
  ∀ (s : State) (dmaCh timer outCh : BitVec 8) (clk : BitVec 32), s.work = .idle →
    s.initState = .ready ∨ s.initState = .failed →
    exec (.init dmaCh timer outCh clk) s = .refused .reInit

/-! ### The Transfer Scheduler (spec/42_transfer_scheduler.md) -/

/-- R119 (the spec's decision D20): a `DISPLAY` when `init_state` is not READY is refused as DisplayNotReady; `SET`,
`CLEAR` and `CLEAR_ALL` are performed there. -/
def Obligations.DisplayWithoutInitRefused : Prop :=
  ∀ s : State, s.work = .idle → s.initState ≠ .ready →
    exec .display s = .refused .displayNotReady ∧
    (∀ (index : Nat) (r g b : Byte), index < s.params.n → ∃ t, exec (.set index r g b) s = .next t) ∧
    (∀ index : Nat, index < s.params.n → ∃ t, exec (.clear index) s = .next t) ∧
    ∃ t, exec .clearAll s = .next t

/-- R87 D1: a READY block's `DISPLAY` first disables the transfer and is ARMED, and changes nothing else yet. -/
def Obligations.DisplayFirstDisables : Prop :=
  ∀ s : State, s.work = .idle → s.initState = .ready →
    exec .display s = .next { s with xferEn := false, st := .armed, work := .display .d2 }

/-- R87, R88: after `DISPLAY`'s D1 with no flag pending, the next four steps are D2 to D5 whatever the schedule. They
leave the state of `DISPLAY` taken as one atomic step: slots 0 to `2*B - 1` of the Pixel Store in the buffer, `cursor =
2*B`, `rd = 0`, the transfer enabled; and, the HOST silent and no overrun before, the frame starts as `FrameInv` says.
-/
def Obligations.DisplayIsOneAtomicStep : Prop :=
  ∀ s t : State, s.Inv → s.Running → s.work = .idle → s.initState = .ready → anyPending s = false →
    exec .display s = .next t →
    ∃ u : State, Host.Core.run Sys2Proof.core 4 t = .next u ∧
      forgetChoices u = forgetChoices (displayAtomic s) ∧
      u.cursor = 2 * s.params.b ∧ u.rd = 0 ∧ u.xferEn = true ∧ u.st = .streaming ∧ u.encCalls = 2 ∧
      u.outMark = s.out.length ∧ anyPending u = false ∧
      (∀ i, i < 2 * s.params.b → ∀ q, q < 24 → some (bufRead u (24 * i + q)) = (slotSymbols s i)[q]?) ∧
      (s.cmds = [] → s.overrun = false → FrameInv u)

/-- R92 (both flags cleared: the spec's decision D15): with `cursor >= T`, either IRQ step disables the transfer, clears
both flags and is DONE; it encodes nothing and changes nothing else of the hardware; afterwards no agent but the HOST
has an enabled step. -/
def Obligations.HandlerTerminates : Prop :=
  ∀ (s : State) (i : Instr), s.params.threshold ≤ s.cursor →
    (i = .irqHt ∧ s.pendHalf = true ∨ i = .irqTc ∧ s.pendFull = true) →
    ∃ t, exec i s = .next t ∧
      t = { s with
        xferEn := false, pendHalf := false, pendFull := false, st := .done, disableCnt := s.disableCnt + 1 } ∧
      ∀ tn ∈ enabledTurns t, tn = .host

/-- R89 to R91: with `cursor < T`, `IRQ_HT` refills half 0 and clears `pend_half`; `IRQ_TC` refills half 1 and clears
`pend_full`; the cursor advances by `B`; nothing else changes. -/
def Obligations.IrqRefillsTheFreedHalf : Prop :=
  ∀ s : State, s.cursor < s.params.threshold →
    (s.pendHalf = true → ∃ t, exec .irqHt s = .next t ∧ HalfEncoded .h0 s t ∧
      t = { s with
        buf := t.buf, cursor := s.cursor + s.params.b, encCalls := s.encCalls + 1, pendHalf := false }) ∧
    (s.pendFull = true → ∃ t, exec .irqTc s = .next t ∧ HalfEncoded .h1 s t ∧
      t = { s with
        buf := t.buf, cursor := s.cursor + s.params.b, encCalls := s.encCalls + 1, pendFull := false })

/-- R93: no run of the handler leaves the transfer as it was without refilling: it disables or it encodes once. -/
def Obligations.HandlerRefillsOrDisables : Prop :=
  ∀ (s t : State) (i : Instr), i = .irqHt ∨ i = .irqTc → exec i s = .next t →
    (t.xferEn = false ∧ t.st = .done ∧ t.encCalls = s.encCalls ∧ t.cursor = s.cursor ∧ s.params.threshold ≤ s.cursor) ∨
    (t.xferEn = s.xferEn ∧ t.st = s.st ∧ t.encCalls = s.encCalls + 1 ∧ t.cursor = s.cursor + s.params.b ∧
      s.cursor < s.params.threshold)

/-- R132, R18: with both flags set either IRQ step may come first, and the order decides which half gets the earlier
slots. -/
def Obligations.EitherPendingSignalMayBeFirst : Prop :=
  ∀ (s : State) (rest : List Choice) (k k' : Nat), s.Running → s.pendHalf = true → s.pendFull = true →
    s.cursor + s.params.b < s.params.threshold →
    (∃ t : State, Host.Core.run Sys2Proof.core 2 { s with sched := ⟨.irqHt, k⟩ :: ⟨.irqTc, k'⟩ :: rest } = .next t ∧
      anyPending t = false ∧ t.cursor = s.cursor + 2 * s.params.b ∧
      ∀ i, i < s.params.b → ∀ q, q < 24 →
        some (bufRead t (slotAddr s.params .h0 i + q)) = (slotSymbols s (s.cursor + i))[q]? ∧
        some (bufRead t (slotAddr s.params .h1 i + q)) = (slotSymbols s (s.cursor + s.params.b + i))[q]?) ∧
    (∃ t : State, Host.Core.run Sys2Proof.core 2 { s with sched := ⟨.irqTc, k⟩ :: ⟨.irqHt, k'⟩ :: rest } = .next t ∧
      anyPending t = false ∧ t.cursor = s.cursor + 2 * s.params.b ∧
      ∀ i, i < s.params.b → ∀ q, q < 24 →
        some (bufRead t (slotAddr s.params .h1 i + q)) = (slotSymbols s (s.cursor + i))[q]? ∧
        some (bufRead t (slotAddr s.params .h0 i + q)) = (slotSymbols s (s.cursor + s.params.b + i))[q]?)

/-! ### The streamer (spec/43_streamer.md) -/

/-- R106: `STREAM` with the transfer enabled delivers `buf[rd]` to `ccr`, advances `rd` modulo BUFLEN, raises what the new
`rd` says, and changes nothing else. -/
def Obligations.StreamDeliversOneSymbol : Prop :=
  ∀ s : State, s.xferEn = true → s.rd < s.params.buflen →
    ∃ rd half full, rd = (s.rd + 1) % s.params.buflen ∧
      half = (s.pendHalf || decide (rd = s.params.half)) ∧ full = (s.pendFull || decide (rd = 0)) ∧
      exec .stream s = .next { s with
        ccr := bufRead s s.rd, out := s.out ++ [bufRead s s.rd], rd := rd, pendHalf := half, pendFull := full,
        overrun := s.overrun || (half && full) }

/-- R109, R110: `pend_half` is raised by the step that delivers `buf[HALF-1]`, `pend_full` by the one that delivers
`buf[BUFLEN-1]`, and `overrun` is set exactly by a step that leaves both flags set. -/
def Obligations.SignalsAtHalfBoundaries : Prop :=
  ∀ s t : State, s.params.Ok → exec .stream s = .next t →
    (t.pendHalf = true ↔ s.pendHalf = true ∨ s.rd + 1 = s.params.half) ∧
    (t.pendFull = true ↔ s.pendFull = true ∨ s.rd + 1 = s.params.buflen) ∧
    (t.overrun = true ↔ s.overrun = true ∨ (t.pendHalf = true ∧ t.pendFull = true))

/-- R61, R62: an IRQ step whose flag is 0 and a STREAM step with `xfer_en = 0` are no steps of any agent: they are refused
(the name of the refusal is the model's, log 12). -/
def Obligations.StepsNotEnabledAreRefused : Prop :=
  ∀ s : State,
    (s.pendHalf = false → exec .irqHt s = .refused .notEnabled) ∧
    (s.pendFull = false → exec .irqTc s = .refused .notEnabled) ∧
    (s.xferEn = false → exec .stream s = .refused .notEnabled) ∧
    ∀ t, nextTurn s = some t → runTurn t s ≠ .refused .notEnabled

/-- R148, R110: after the STREAM step that raises a flag, `HALF - 1` more STREAM steps without an IRQ step leave the run
on time, and the `HALF`-th is the one that sets `overrun`. -/
def Obligations.DeadlineIsHalfSymbols : Prop :=
  ∀ (s : State) (rest : List Choice) (m : Nat), s.params.Ok → s.Running → s.xferEn = true → s.overrun = false →
    (s.rd = s.params.half ∧ s.pendHalf = true ∧ s.pendFull = false ∨
      s.rd = 0 ∧ s.pendHalf = false ∧ s.pendFull = true) →
    s.sched = List.replicate m ⟨.stream, 0⟩ ++ rest → m ≤ s.params.half →
    ∃ t : State, Host.Core.run Sys2Proof.core m s = .next t ∧ (t.overrun = true ↔ m = s.params.half)

/-! ### Which agent steps (spec/60_exceptions.md) -/

/-- A step runs the operation that its turn names. For the HOST: the command its next word decodes to, taken off the
program; one of the byte writes left of a Pixel Store command; or the next micro-step of `DISPLAY`, D3 and D4 being an
`ENCODE_HALF`. For the IRQ and the STREAMER: the operation of the turn. Around it the step only uses up one choice of the
schedule (R69, R85, R87, R128; the schedule as data: log 3). -/
def Obligations.StepRunsTheOperation : Prop :=
  ∀ s : State, s.Running →
    (∀ (w : CmdWord) (rest : List CmdWord) (i : Instr), nextTurn s = some .host → s.work = .idle →
      s.cmds = w :: rest → decodeCommand w = .ok i →
      i.wellFormed = true ∧ step s = onNext dropChoice (exec i { s with cmds := rest })) ∧
    (∀ ws, nextTurn s = some .host → s.work = .writes ws → ws ≠ [] →
      step s = .next (dropChoice (writeStep (nextChoice s).pick ws s))) ∧
    (nextTurn s = some .host → s.work = .display .d2 → step s = .next (dropChoice (displayD2 s))) ∧
    (nextTurn s = some .host → s.work = .display .d3 →
      step s = onNext (fun t => dropChoice { t with work := .display .d4 }) (exec (.encodeHalf .h0) s)) ∧
    (nextTurn s = some .host → s.work = .display .d4 →
      step s = onNext (fun t => dropChoice { t with work := .display .d5 }) (exec (.encodeHalf .h1) s)) ∧
    (nextTurn s = some .host → s.work = .display .d5 → step s = .next (dropChoice (displayD5 s))) ∧
    (nextTurn s = some .irqHt → step s = onNext dropChoice (exec .irqHt s)) ∧
    (nextTurn s = some .irqTc → step s = onNext dropChoice (exec .irqTc s)) ∧
    (nextTurn s = some .stream → step s = onNext dropChoice (exec .stream s))

/-- R128, R130: any enabled step may be taken next; in particular STREAM whenever `xfer_en = 1`, whatever the flags, the
HOST and the handler are doing. -/
def Obligations.EveryEnabledTurnCanBeTaken : Prop :=
  ∀ (s : State) (tn : Turn) (k : Nat) (rest : List Choice), s.Running → turnEnabled s tn = true →
    nextTurn { s with sched := ⟨tn, k⟩ :: rest } = some tn ∧
    step { s with sched := ⟨tn, k⟩ :: rest } = onNext dropChoice (runTurn tn { s with sched := ⟨tn, k⟩ :: rest }) ∧
    (s.xferEn = true → turnEnabled s .stream = true)

/-- R128: only enabled steps are taken, and a state with a fault recorded has none; with no step enabled the block waits,
unchanged (the waiting step is the model's, log 5). -/
def Obligations.OnlyEnabledTurnsAreTaken : Prop :=
  ∀ s t : State, step s = .next t → s.Running ∧
    ((enabledTurns s = [] ∧ t = s) ∨
      ∃ tn ∈ enabledTurns s, ∃ u, runTurn tn s = .next u ∧ t = dropChoice u)

/-- R129 (the spec's decision D12; log 4): while a flag is pending no HOST micro-step is enabled, and no step changes
what only the HOST changes. -/
def Obligations.HostHeldWhileFlagPending : Prop :=
  ∀ s : State, s.pendHalf = true ∨ s.pendFull = true →
    turnEnabled s .host = false ∧
    ∀ t, step s = .next t →
      t.cmds = s.cmds ∧ t.work = s.work ∧ t.pix = s.pix ∧ t.initState = s.initState ∧ t.status = s.status ∧ t.cfg = s.cfg

/-- R127: a pending flag stays set until its own IRQ step, or the termination branch of the other one, clears it. An `INIT`,
which R127 also lists, cannot come in between, since the HOST is held while a flag is pending (R129, the spec's decision D12;
log 4). -/
def Obligations.FlagsClearedOnlyByHandler : Prop :=
  ∀ s t : State, step s = .next t →
    (s.pendHalf = true → t.pendHalf = false →
      nextTurn s = some .irqHt ∨ (nextTurn s = some .irqTc ∧ s.params.threshold ≤ s.cursor)) ∧
    (s.pendFull = true → t.pendFull = false →
      nextTurn s = some .irqTc ∨ (nextTurn s = some .irqHt ∧ s.params.threshold ≤ s.cursor))

/-- R107, R108, R102: the transfer is enabled only by `DISPLAY`'s D5, `rd` then 0, and disabled only by `DISPLAY`'s D1
or the termination branch, `rd` and `ccr` kept. -/
def Obligations.TransferEnableChanges : Prop :=
  ∀ s t : State, s.Inv → step s = .next t →
    (s.xferEn = false → t.xferEn = true → s.work = .display .d5 ∧ t.rd = 0 ∧ t.st = .streaming) ∧
    (s.xferEn = true → t.xferEn = false → t.rd = s.rd ∧ t.ccr = s.ccr ∧
      ((t.st = .done ∧ s.params.threshold ≤ s.cursor) ∨ t.work = .display .d2))

/-- R86: `st` changes only as the table of transitions says: D1 of a READY block's `DISPLAY` with no flag pending, from
any other state to ARMED; D5 to STREAMING; a termination to DONE. No other transition exists. -/
def Obligations.SchedulerTransitions : Prop :=
  ∀ s t : State, s.Inv → step s = .next t →
    t.st = s.st ∨
    (s.st ≠ .armed ∧ t.st = .armed ∧ nextTurn s = some .host ∧ s.work = .idle ∧ s.initState = .ready ∧
      anyPending s = false ∧ t.xferEn = false ∧ ∃ w rest, s.cmds = w :: rest ∧ decodeCommand w = .ok .display) ∨
    (s.st = .armed ∧ t.st = .streaming ∧ nextTurn s = some .host ∧ s.work = .display .d5 ∧ t.rd = 0 ∧ t.xferEn = true) ∨
    (s.st = .streaming ∧ t.st = .done ∧ (nextTurn s = some .irqHt ∨ nextTurn s = some .irqTc) ∧
      s.params.threshold ≤ s.cursor ∧ t.xferEn = false ∧ anyPending t = false)

/-- R20 to R22, R164 (a): the configuration registers, `status` and `init_state` are written only by the first
micro-step of an `INIT`, in a state whose `init_state` is UNINIT. -/
def Obligations.OnlyInitConfigures : Prop :=
  ∀ s t : State, step s = .next t →
    (t.cfg = s.cfg ∧ t.status = s.status ∧ t.initState = s.initState) ∨
    (nextTurn s = some .host ∧ s.work = .idle ∧ s.initState = .uninit ∧
      ∃ w rest dmaCh timer outCh clk, s.cmds = w :: rest ∧ decodeCommand w = .ok (.init dmaCh timer outCh clk))

/-- R35, R75 (c), R163: a step writes at most one byte of the Pixel Store, and only as a micro-step of `SET`, `CLEAR` or
`CLEAR_ALL`: the byte that one of the command's remaining writes names. -/
def Obligations.OnlyPixelCommandsWritePixels : Prop :=
  ∀ s t : State, step s = .next t →
    t.pix = s.pix ∨
    (nextTurn s = some .host ∧ ∃ w : PixWrite, t.pix = Memory.put s.pix (pixAddr w.index w.chan) w.value ∧
      ((∃ ws, s.work = .writes ws ∧ w ∈ ws) ∨
        (s.work = .idle ∧ ∃ c rest i, s.cmds = c :: rest ∧ decodeCommand c = .ok i ∧
          ((∃ index r g b, i = .set index r g b ∧ w ∈ setWrites s.params index r g b) ∨
            (∃ index, i = .clear index ∧ w ∈ clearWrites index) ∨
            (i = .clearAll ∧ w ∈ clearAllWrites s.params)))))

/-- R138: what each context's step leaves alone. STREAM writes no memory, no cursor and no scheduler state; an IRQ step
writes no `pix`, `rd`, `ccr` or `out`, and `buf` only in the half of its signal; a HOST step writes no `ccr` and no
`out`, and `buf` only inside `DISPLAY` with the transfer disabled. -/
def Obligations.ContextsKeepTheirAccess : Prop :=
  ∀ s t : State, s.Inv → step s = .next t →
    (nextTurn s = some .stream →
      t.pix = s.pix ∧ t.buf = s.buf ∧ t.cursor = s.cursor ∧ t.st = s.st ∧ t.xferEn = s.xferEn) ∧
    (nextTurn s = some .irqHt → t.pix = s.pix ∧ t.rd = s.rd ∧ t.ccr = s.ccr ∧ t.out = s.out ∧
      ∀ j, halfOf s.params j = .h1 → bufRead t j = bufRead s j) ∧
    (nextTurn s = some .irqTc → t.pix = s.pix ∧ t.rd = s.rd ∧ t.ccr = s.ccr ∧ t.out = s.out ∧
      ∀ j, halfOf s.params j = .h0 → bufRead t j = bufRead s j) ∧
    (nextTurn s = some .host → t.ccr = s.ccr ∧ t.out = s.out ∧ t.overrun = s.overrun ∧
      (t.buf ≠ s.buf → s.xferEn = false ∧ (s.work = .display .d3 ∨ s.work = .display .d4)))

/-- R30, R121, R122: of a stop the first fault is recorded and stays, a refusal sets the mark, nothing else changes; and the
machine does not go on from a recorded stop (how the record is kept is the model's choice, log 11). -/
def Obligations.StopsAreRecorded : Prop :=
  ∀ s : State,
    (∀ f, s.fault = none →
      recordOutcome s (.fault f) = { s with fault := some f } ∧ step (recordOutcome s (.fault f)) = .fault f) ∧
    (∀ f f', s.fault = some f → recordOutcome s (.fault f') = s ∧ step s = .fault f) ∧
    (∀ r, recordOutcome s (.refused r) = { s with refused := true }) ∧
    (∀ r, s.fault = none → step (recordOutcome s (.refused r)) = .refused .alreadyRefused)

/-! ### Reset, invariants and whole-machine rules -/

/-- R32, R144: the reset values the spec chooses. -/
def Obligations.ResetLeavesBlockIdle : Prop :=
  State.reset.st = .idle ∧ State.reset.xferEn = false ∧ State.reset.pendHalf = false ∧ State.reset.pendFull = false ∧
  State.reset.initState = .uninit ∧ State.reset.out = [] ∧ State.reset.outMark = 0 ∧ State.reset.encCalls = 0 ∧
  State.reset.disableCnt = 0 ∧ State.reset.overrun = false ∧ State.reset.fault = none ∧ State.reset.refused = false

/-- R145: after reset, whatever the HOST's program, only the HOST has an enabled step. -/
def Obligations.ResetEnablesOnlyHost : Prop :=
  ∀ (cmds : List CmdWord) (tn : Turn), tn ∈ enabledTurns { State.reset with cmds := cmds } → tn = .host

/-- The machine meets its invariant at reset (R31, R32), whatever its parameters and the HOST's program. -/
def Obligations.ResetMeetsInvariant : Prop :=
  State.reset.Inv ∧ ∀ (p : Params) (cmds : List CmdWord), p.Ok → ({ State.resetWith p with cmds := cmds } : State).Inv

/-- Every step from every state that meets the invariant leads to a state that meets it (R31 (a) to (f), R24, R103,
R110). -/
def Obligations.StepKeepsInvariant : Prop :=
  ∀ s t : State, s.Inv → step s = .next t → t.Inv

/-- A state that meets the invariant never stops for a reason the spec does not give: the faults and refusals that its
step answers are those of R121 and R122, or the record of an earlier one. -/
def Obligations.OnlyTheSpecsStops : Prop :=
  ∀ s : State, s.Inv → s.Running →
    (∀ f, step s = .fault f → ∃ index, f = .indexOutOfRange index ∧ s.params.n ≤ index) ∧
    ∀ r, step s = .refused r →
      r = .reservedOpcode ∨ r = .reservedField ∨ r = .reInit ∨ r = .displayNotReady

/-- R52: while streaming with no overrun, no step writes the half in flight. -/
def Obligations.FlightHalfIsNotWritten : Prop :=
  ∀ s t : State, s.Inv → s.st = .streaming → s.overrun = false → step s = .next t →
    ∀ j, halfOf s.params j = halfOf s.params s.rd → Memory.get t.buf j = Memory.get s.buf j

/-- R29: no operation reads the ghost state: without it every step does the same to registers, memories and the HOST's
program. -/
def Obligations.GhostStateIsNotRead : Prop :=
  ∀ s : State, onNext eraseGhost (step (eraseGhost s)) = onNext eraseGhost (step s)

/-- R33, R5: no step changes a parameter, the gamma table among them. -/
def Obligations.ParametersNeverChange : Prop :=
  ∀ s t : State, step s = .next t → t.params = s.params

/-- R158: a running machine has no step to take exactly when its run has ended; a streaming one always has one. -/
def Obligations.NoStepExactlyAtRunEnd : Prop :=
  ∀ s : State, s.Inv → s.Running → (nextTurn s = none ↔ s.RunEnded)

/-- R96, R97, R99, R101: while no deadline is missed and the HOST is silent, every step keeps the frame of the display
request: what has been delivered is a prefix of the frame, signals alternate, and the request ends after `K` signals with
every real pixel delivered and fewer than `HALF` symbols more. -/
def Obligations.StepKeepsTheFrame : Prop :=
  ∀ s t : State, FrameInv s → step s = .next t → t.overrun = false → FrameInv t

/-- R99: when such a display request is DONE, the symbols delivered are the first `K * HALF + j` of the frame with `j <
HALF`: all `N` pixels in order, then only `LOW_BIT`. -/
def Obligations.DoneFrameIsDelivered : Prop :=
  ∀ s : State, FrameInv s → s.st = .done →
    ∃ j, j < s.params.half ∧
      s.out.drop s.outMark =
        frameSlots s s.params.n ++
          List.replicate (24 * (s.params.signals * s.params.b - s.params.n) + j) s.params.lowBit ∧
      s.encCalls = s.params.signals + 1 ∧ s.cursor = (s.params.signals + 1) * s.params.b ∧ s.disableCnt = 1

/-- R97, R98, R99: after `DISPLAY`, with every IRQ step prompt, the request is DONE after `K` signals, `K + 1` encodes
and one disable, having delivered exactly the first `K * B` slots of the frame. -/
def Obligations.PromptRunDeliversTheFrame : Prop :=
  ∀ (s : State) (rest : List Choice), FrameInv s → s.Running → s.st = .streaming → s.cursor = 2 * s.params.b →
    s.outMark = s.out.length → s.sched = promptSchedule s.params 1 s.params.signals ++ rest →
    ∃ t : State, Host.Core.run Sys2Proof.core (s.params.signals * (s.params.half + 1)) s = .next t ∧
      t.st = .done ∧ t.xferEn = false ∧ t.overrun = false ∧ t.sched = rest ∧ t.disableCnt = 1 ∧
      t.encCalls = s.params.signals + 1 ∧ t.cursor = (s.params.signals + 1) * s.params.b ∧
      t.out.drop t.outMark = frameSlots s (s.params.signals * s.params.b)

/-- R131: in every execution that is weakly fair to the IRQ steps and to `STREAM`, a display request that is not re-armed
reaches DONE, and stays there (the assumptions are the spec's decision D29). The HOST may go on meanwhile; of its own
micro-steps R131 assumes no fairness, so the request starts here at STREAMING. -/
def Obligations.FairRequestReachesDone : Prop :=
  ∀ (σ : Nat → State) (i : Nat), Execution σ → Fair σ → (σ i).Inv → (σ i).st = .streaming → NotRearmed σ i →
    ∃ j, i ≤ j ∧ ∀ k, j ≤ k → (σ k).st = .done
end

