-- ==== Sys2Proof/Laws/Config.lean ====
section
/-! SUPPORT. The machine's parameters meet the constraints of spec R5, whatever the open constants are. -/

namespace Sys2Proof

theorem Config.runningMax_mono (raw : Nat → Byte) {a b : Nat} (h : a ≤ b) :
    Config.runningMax raw a ≤ Config.runningMax raw b := by
  induction b with
  | zero => rw [Nat.le_zero.1 h]
  | succ b ih =>
    rcases Nat.lt_or_ge b a with h1 | h1
    · rw [Nat.le_antisymm h h1]
    · exact Nat.le_trans (ih h1) (Nat.le_max_left _ _)

theorem Config.runningMax_lt (raw : Nat → Byte) (v : Nat) : Config.runningMax raw v < 256 := by
  induction v with
  | zero => exact (raw 0).isLt
  | succ v ih => exact Nat.max_lt.2 ⟨ih, (raw (v + 1)).isLt⟩

/-- A table that is a running maximum is monotonic. -/
theorem gammaMonotone_runningMax (p : Params) (raw : Nat → Byte)
    (h : p.gamma = Vector.ofFn fun v => BitVec.ofNat 8 (Config.runningMax raw v.val)) : p.GammaMonotone := by
  intro i j hij
  simp only [h, Fin.getElem_fin, Vector.getElem_ofFn, BitVec.le_def, BitVec.toNat_ofNat]
  rw [Nat.mod_eq_of_lt (Config.runningMax_lt raw i), Nat.mod_eq_of_lt (Config.runningMax_lt raw j)]
  exact Config.runningMax_mono raw hij

theorem Config.params_ok : Config.params.Ok where
  n_pos := Nat.le_add_left 1 _
  b_pos := Nat.le_add_left 1 _
  low_lt_high := by
    have h1 : Config.low < 255 := Nat.mod_lt _ (by decide)
    have h2 : Config.highRaw % (255 - Config.low) < 255 - Config.low := Nat.mod_lt _ (by omega)
    simp only [Config.params, BitVec.lt_def, BitVec.toNat_ofNat]
    rw [Nat.mod_eq_of_lt (by omega), Nat.mod_eq_of_lt (by omega)]
    omega
  gamma_mono := gammaMonotone_runningMax _ Config.gammaRaw rfl
  cur_width := Nat.lt_of_lt_of_le Nat.lt_log2_self (Nat.pow_le_pow_right (by decide) (Nat.le_add_right _ _))

end Sys2Proof
end

