-- ==== Sys2Proof/Laws/Memory.lean ====
section
/-! SUPPORT. The laws of the byte memories: a read after a write, that every write keeps the canonical form, and what a run of
consecutive writes leaves. -/

namespace Sys2Proof.Machine

@[simp] theorem Memory.get_nil (a : Nat) : Memory.get [] a = none := rfl

@[simp] theorem Memory.get_put_same (m : Memory) (a : Nat) (v : Byte) : Memory.get (Memory.put m a v) a = some v := by
  induction m with
  | nil => simp [Memory.put, Memory.get]
  | cons c m ih =>
    obtain ⟨k, w⟩ := c
    by_cases h1 : a < k
    · simp [Memory.put, h1, Memory.get]
    · by_cases h2 : a = k
      · simp [Memory.put, h2, Memory.get]
      · have h3 : k ≠ a := fun h => h2 h.symm
        simp [Memory.put, h1, h2, Memory.get, h3, ih]

theorem Memory.get_put_ne (m : Memory) {a a' : Nat} (v : Byte) (h : a' ≠ a) :
    Memory.get (Memory.put m a v) a' = Memory.get m a' := by
  have ha : a ≠ a' := fun e => h e.symm
  induction m with
  | nil => simp [Memory.put, Memory.get, ha]
  | cons c m ih =>
    obtain ⟨k, w⟩ := c
    by_cases h1 : a < k
    · simp [Memory.put, h1, Memory.get, ha]
    · by_cases h2 : a = k
      · subst h2; simp [Memory.put, Memory.get, ha]
      · simp [Memory.put, h1, h2, Memory.get, ih]

theorem Memory.get_put (m : Memory) (a a' : Nat) (v : Byte) :
    Memory.get (Memory.put m a v) a' = if a' = a then some v else Memory.get m a' := by
  by_cases h : a' = a
  · simp [h]
  · simp [h, Memory.get_put_ne]

/-- A written cell is the new one or an old one. -/
theorem Memory.mem_put {m : Memory} {a : Nat} {v : Byte} {c : Host.Cell} (h : c ∈ Memory.put m a v) :
    c = (a, v) ∨ c ∈ m := by
  induction m with
  | nil => simpa [Memory.put] using h
  | cons d m ih =>
    obtain ⟨k, w⟩ := d
    simp only [Memory.put] at h
    split at h
    · simpa using h
    · split at h
      · rcases List.mem_cons.1 h with h | h
        · exact .inl h
        · exact .inr (List.mem_cons_of_mem _ h)
      · rcases List.mem_cons.1 h with h | h
        · exact .inr (by simp [h])
        · exact (ih h).imp_right (List.mem_cons_of_mem _)

/-- A write keeps the canonical form. -/
theorem Memory.wf_put {m : Memory} (a : Nat) (v : Byte) (h : Memory.wf m) : Memory.wf (Memory.put m a v) := by
  induction m with
  | nil => simp [Memory.put, Memory.wf]
  | cons c m ih =>
    obtain ⟨k, w⟩ := c
    obtain ⟨hk, hm⟩ := List.pairwise_cons.1 h
    simp only [Memory.put]
    split
    · rename_i h1
      refine List.pairwise_cons.2 ⟨fun d hd => ?_, h⟩
      rcases List.mem_cons.1 hd with rfl | hd
      · exact h1
      · exact Nat.lt_trans h1 (hk d hd)
    · split
      · rename_i h2
        exact List.pairwise_cons.2 ⟨fun d hd => h2 ▸ hk d hd, hm⟩
      · refine List.pairwise_cons.2 ⟨fun d hd => ?_, ih hm⟩
        rcases Memory.mem_put hd with rfl | hd
        · simp only; omega
        · exact hk d hd

/-- Two canonical memories that hold the same byte at every address are equal. -/
theorem Memory.ext_get {m m' : Memory} (h : Memory.wf m) (h' : Memory.wf m')
    (e : ∀ a, Memory.get m a = Memory.get m' a) : m = m' := by
  have none_below : ∀ (l : Memory) (a : Nat), (∀ c ∈ l, a < c.1) → Memory.get l a = none := by
    intro l a hl
    induction l with
    | nil => rfl
    | cons c l ih =>
      have h1 : c.1 ≠ a := Nat.ne_of_gt (hl c (by simp))
      simp [Memory.get, h1, ih fun d hd => hl d (by simp [hd])]
  induction m generalizing m' with
  | nil =>
    cases m' with
    | nil => rfl
    | cons c m' => have := e c.1; simp [Memory.get] at this
  | cons c m ih =>
    obtain ⟨hc, hm⟩ := List.pairwise_cons.1 h
    cases m' with
    | nil => have := e c.1; simp [Memory.get] at this
    | cons c' m' =>
      obtain ⟨hc', hm'⟩ := List.pairwise_cons.1 h'
      have hk : c.1 = c'.1 := by
        rcases Nat.lt_trichotomy c.1 c'.1 with hlt | heq | hgt
        · have h1 := e c.1
          have h2 : Memory.get (c' :: m') c.1 = none := none_below _ _ fun d hd => by
            rcases List.mem_cons.1 hd with rfl | hd
            · exact hlt
            · exact Nat.lt_trans hlt (hc' d hd)
          rw [h2] at h1
          simp [Memory.get] at h1
        · exact heq
        · have h1 := e c'.1
          have h2 : Memory.get (c :: m) c'.1 = none := none_below _ _ fun d hd => by
            rcases List.mem_cons.1 hd with rfl | hd
            · exact hgt
            · exact Nat.lt_trans hgt (hc d hd)
          rw [h2] at h1
          simp [Memory.get] at h1
      have hv : c.2 = c'.2 := by
        have h1 := e c.1
        simpa [Memory.get, hk] using h1
      have hrest : m = m' := by
        refine ih hm hm' fun a => ?_
        by_cases ha : c.1 = a
        · subst ha
          rw [none_below m _ hc, none_below m' _ fun d hd => hk ▸ hc' d hd]
        · have h1 := e a
          have ha' : c'.1 ≠ a := hk ▸ ha
          simpa [Memory.get, ha, ha'] using h1
      rw [hrest, Prod.ext hk hv]

/-! ### Consecutive writes -/

/-- What a run of consecutive writes leaves: the new byte inside the run, the old memory outside. -/
theorem Memory.get_putAll (m : Memory) (a : Nat) (ys : List Byte) (j : Nat) :
    Memory.get (Memory.putAll m a ys) j = if a ≤ j ∧ j < a + ys.length then ys[j - a]? else Memory.get m j := by
  induction ys generalizing m a with
  | nil =>
    have h : ¬ (a ≤ j ∧ j < a) := by omega
    simp [Memory.putAll, h]
  | cons y ys ih =>
    rw [Memory.putAll, ih, Memory.get_put]
    by_cases h1 : a + 1 ≤ j ∧ j < a + 1 + ys.length
    · have h2 : a ≤ j ∧ j < a + (y :: ys).length := by simp only [List.length_cons]; omega
      have h3 : j - a = (j - (a + 1)) + 1 := by omega
      rw [if_pos h1, if_pos h2, h3, List.getElem?_cons_succ]
    · rw [if_neg h1]
      by_cases h4 : j = a
      · subst h4
        simp
      · have h2 : ¬ (a ≤ j ∧ j < a + (y :: ys).length) := by simp only [List.length_cons]; omega
        rw [if_neg h4, if_neg h2]

theorem Memory.mem_putAll {m : Memory} {a : Nat} {ys : List Byte} {c : Host.Cell} (h : c ∈ Memory.putAll m a ys) :
    (a ≤ c.1 ∧ c.1 < a + ys.length ∧ c.2 ∈ ys) ∨ c ∈ m := by
  induction ys generalizing m a with
  | nil => exact .inr h
  | cons y ys ih =>
    rcases ih h with ⟨h1, h2, h3⟩ | h
    · refine .inl ⟨by omega, by simp only [List.length_cons]; omega, List.mem_cons_of_mem _ h3⟩
    · rcases Memory.mem_put h with rfl | h
      · exact .inl ⟨Nat.le_refl _, by simp, by simp⟩
      · exact .inr h

/-- A run of consecutive writes keeps the canonical form. -/
theorem Memory.wf_putAll {m : Memory} (a : Nat) (ys : List Byte) (h : Memory.wf m) : Memory.wf (Memory.putAll m a ys) := by
  induction ys generalizing m a with
  | nil => exact h
  | cons y ys ih => exact ih (a + 1) (Memory.wf_put a y h)

/-! ### The Pixel Store's addresses and reads -/

/-- Two pixel bytes have one address only if they are the same byte (R36). -/
theorem pixAddr_inj {i j : Nat} {c d : Chan} (h : pixAddr i c = pixAddr j d) : i = j ∧ c = d := by
  cases c <;> cases d <;> simp only [pixAddr, chanOff] at h <;> first | exact ⟨by omega, rfl⟩ | (exfalso; omega)

theorem pixAddr_lt {i n : Nat} (c : Chan) (h : i < n) : pixAddr i c < 3 * n := by
  cases c <;> simp only [pixAddr, chanOff] <;> omega

@[simp] theorem pixReadAt_pixWrite_same (s : State) (w : PixWrite) :
    pixReadAt (pixWrite s w) (pixAddr w.index w.chan) = w.value := by
  simp [pixReadAt, pixWrite]

theorem pixReadAt_pixWrite_ne (s : State) (w : PixWrite) {a : Nat} (h : a ≠ pixAddr w.index w.chan) :
    pixReadAt (pixWrite s w) a = pixReadAt s a := by
  simp [pixReadAt, pixWrite, Memory.get_put_ne _ _ h]

/-- Both memories are in canonical form at reset. -/
theorem reset_memories_wf : Memory.wf State.reset.pix ∧ Memory.wf State.reset.buf := ⟨List.Pairwise.nil, List.Pairwise.nil⟩

end Sys2Proof.Machine
end

