-- ==== Sys2Proof/Laws/State.lean ====
section
/-! SUPPORT. The fields of a state after each named update, so that no proof unfolds a record update. -/

namespace Sys2Proof.Machine

/-! `clearFlags` -/

@[simp] theorem clearFlags_params (s : State) : (clearFlags s).params = s.params := rfl
@[simp] theorem clearFlags_cursor (s : State) : (clearFlags s).cursor = s.cursor := rfl
@[simp] theorem clearFlags_rd (s : State) : (clearFlags s).rd = s.rd := rfl
@[simp] theorem clearFlags_ccr (s : State) : (clearFlags s).ccr = s.ccr := rfl
@[simp] theorem clearFlags_st (s : State) : (clearFlags s).st = s.st := rfl
@[simp] theorem clearFlags_xferEn (s : State) : (clearFlags s).xferEn = s.xferEn := rfl
@[simp] theorem clearFlags_pendHalf (s : State) : (clearFlags s).pendHalf = false := rfl
@[simp] theorem clearFlags_pendFull (s : State) : (clearFlags s).pendFull = false := rfl
@[simp] theorem clearFlags_initState (s : State) : (clearFlags s).initState = s.initState := rfl
@[simp] theorem clearFlags_cfg (s : State) : (clearFlags s).cfg = s.cfg := rfl
@[simp] theorem clearFlags_status (s : State) : (clearFlags s).status = s.status := rfl
@[simp] theorem clearFlags_pix (s : State) : (clearFlags s).pix = s.pix := rfl
@[simp] theorem clearFlags_buf (s : State) : (clearFlags s).buf = s.buf := rfl
@[simp] theorem clearFlags_out (s : State) : (clearFlags s).out = s.out := rfl
@[simp] theorem clearFlags_outMark (s : State) : (clearFlags s).outMark = s.outMark := rfl
@[simp] theorem clearFlags_encCalls (s : State) : (clearFlags s).encCalls = s.encCalls := rfl
@[simp] theorem clearFlags_disableCnt (s : State) : (clearFlags s).disableCnt = s.disableCnt := rfl
@[simp] theorem clearFlags_overrun (s : State) : (clearFlags s).overrun = s.overrun := rfl
@[simp] theorem clearFlags_fault (s : State) : (clearFlags s).fault = s.fault := rfl
@[simp] theorem clearFlags_refused (s : State) : (clearFlags s).refused = s.refused := rfl
@[simp] theorem clearFlags_cmds (s : State) : (clearFlags s).cmds = s.cmds := rfl
@[simp] theorem clearFlags_work (s : State) : (clearFlags s).work = s.work := rfl
@[simp] theorem clearFlags_sched (s : State) : (clearFlags s).sched = s.sched := rfl
@[simp] theorem clearFlags_fresh (s : State) : (clearFlags s).fresh = s.fresh := rfl

/-! `acknowledge .ht` -/

@[simp] theorem acknowledgeHt_params (s : State) : (acknowledge .ht s).params = s.params := rfl
@[simp] theorem acknowledgeHt_cursor (s : State) : (acknowledge .ht s).cursor = s.cursor := rfl
@[simp] theorem acknowledgeHt_rd (s : State) : (acknowledge .ht s).rd = s.rd := rfl
@[simp] theorem acknowledgeHt_ccr (s : State) : (acknowledge .ht s).ccr = s.ccr := rfl
@[simp] theorem acknowledgeHt_st (s : State) : (acknowledge .ht s).st = s.st := rfl
@[simp] theorem acknowledgeHt_xferEn (s : State) : (acknowledge .ht s).xferEn = s.xferEn := rfl
@[simp] theorem acknowledgeHt_pendHalf (s : State) : (acknowledge .ht s).pendHalf = false := rfl
@[simp] theorem acknowledgeHt_pendFull (s : State) : (acknowledge .ht s).pendFull = s.pendFull := rfl
@[simp] theorem acknowledgeHt_initState (s : State) : (acknowledge .ht s).initState = s.initState := rfl
@[simp] theorem acknowledgeHt_cfg (s : State) : (acknowledge .ht s).cfg = s.cfg := rfl
@[simp] theorem acknowledgeHt_status (s : State) : (acknowledge .ht s).status = s.status := rfl
@[simp] theorem acknowledgeHt_pix (s : State) : (acknowledge .ht s).pix = s.pix := rfl
@[simp] theorem acknowledgeHt_buf (s : State) : (acknowledge .ht s).buf = s.buf := rfl
@[simp] theorem acknowledgeHt_out (s : State) : (acknowledge .ht s).out = s.out := rfl
@[simp] theorem acknowledgeHt_outMark (s : State) : (acknowledge .ht s).outMark = s.outMark := rfl
@[simp] theorem acknowledgeHt_encCalls (s : State) : (acknowledge .ht s).encCalls = s.encCalls := rfl
@[simp] theorem acknowledgeHt_disableCnt (s : State) : (acknowledge .ht s).disableCnt = s.disableCnt := rfl
@[simp] theorem acknowledgeHt_overrun (s : State) : (acknowledge .ht s).overrun = s.overrun := rfl
@[simp] theorem acknowledgeHt_fault (s : State) : (acknowledge .ht s).fault = s.fault := rfl
@[simp] theorem acknowledgeHt_refused (s : State) : (acknowledge .ht s).refused = s.refused := rfl
@[simp] theorem acknowledgeHt_cmds (s : State) : (acknowledge .ht s).cmds = s.cmds := rfl
@[simp] theorem acknowledgeHt_work (s : State) : (acknowledge .ht s).work = s.work := rfl
@[simp] theorem acknowledgeHt_sched (s : State) : (acknowledge .ht s).sched = s.sched := rfl
@[simp] theorem acknowledgeHt_fresh (s : State) : (acknowledge .ht s).fresh = s.fresh := rfl

/-! `acknowledge .tc` -/

@[simp] theorem acknowledgeTc_params (s : State) : (acknowledge .tc s).params = s.params := rfl
@[simp] theorem acknowledgeTc_cursor (s : State) : (acknowledge .tc s).cursor = s.cursor := rfl
@[simp] theorem acknowledgeTc_rd (s : State) : (acknowledge .tc s).rd = s.rd := rfl
@[simp] theorem acknowledgeTc_ccr (s : State) : (acknowledge .tc s).ccr = s.ccr := rfl
@[simp] theorem acknowledgeTc_st (s : State) : (acknowledge .tc s).st = s.st := rfl
@[simp] theorem acknowledgeTc_xferEn (s : State) : (acknowledge .tc s).xferEn = s.xferEn := rfl
@[simp] theorem acknowledgeTc_pendHalf (s : State) : (acknowledge .tc s).pendHalf = s.pendHalf := rfl
@[simp] theorem acknowledgeTc_pendFull (s : State) : (acknowledge .tc s).pendFull = false := rfl
@[simp] theorem acknowledgeTc_initState (s : State) : (acknowledge .tc s).initState = s.initState := rfl
@[simp] theorem acknowledgeTc_cfg (s : State) : (acknowledge .tc s).cfg = s.cfg := rfl
@[simp] theorem acknowledgeTc_status (s : State) : (acknowledge .tc s).status = s.status := rfl
@[simp] theorem acknowledgeTc_pix (s : State) : (acknowledge .tc s).pix = s.pix := rfl
@[simp] theorem acknowledgeTc_buf (s : State) : (acknowledge .tc s).buf = s.buf := rfl
@[simp] theorem acknowledgeTc_out (s : State) : (acknowledge .tc s).out = s.out := rfl
@[simp] theorem acknowledgeTc_outMark (s : State) : (acknowledge .tc s).outMark = s.outMark := rfl
@[simp] theorem acknowledgeTc_encCalls (s : State) : (acknowledge .tc s).encCalls = s.encCalls := rfl
@[simp] theorem acknowledgeTc_disableCnt (s : State) : (acknowledge .tc s).disableCnt = s.disableCnt := rfl
@[simp] theorem acknowledgeTc_overrun (s : State) : (acknowledge .tc s).overrun = s.overrun := rfl
@[simp] theorem acknowledgeTc_fault (s : State) : (acknowledge .tc s).fault = s.fault := rfl
@[simp] theorem acknowledgeTc_refused (s : State) : (acknowledge .tc s).refused = s.refused := rfl
@[simp] theorem acknowledgeTc_cmds (s : State) : (acknowledge .tc s).cmds = s.cmds := rfl
@[simp] theorem acknowledgeTc_work (s : State) : (acknowledge .tc s).work = s.work := rfl
@[simp] theorem acknowledgeTc_sched (s : State) : (acknowledge .tc s).sched = s.sched := rfl
@[simp] theorem acknowledgeTc_fresh (s : State) : (acknowledge .tc s).fresh = s.fresh := rfl

/-! `raiseFlags` -/

@[simp] theorem raiseFlags_params (s : State) : (raiseFlags s).params = s.params := rfl
@[simp] theorem raiseFlags_cursor (s : State) : (raiseFlags s).cursor = s.cursor := rfl
@[simp] theorem raiseFlags_rd (s : State) : (raiseFlags s).rd = s.rd := rfl
@[simp] theorem raiseFlags_ccr (s : State) : (raiseFlags s).ccr = s.ccr := rfl
@[simp] theorem raiseFlags_st (s : State) : (raiseFlags s).st = s.st := rfl
@[simp] theorem raiseFlags_xferEn (s : State) : (raiseFlags s).xferEn = s.xferEn := rfl
@[simp] theorem raiseFlags_pendHalf (s : State) : (raiseFlags s).pendHalf = (s.pendHalf || decide (s.rd = s.params.half)) := rfl
@[simp] theorem raiseFlags_pendFull (s : State) : (raiseFlags s).pendFull = (s.pendFull || decide (s.rd = 0)) := rfl
@[simp] theorem raiseFlags_initState (s : State) : (raiseFlags s).initState = s.initState := rfl
@[simp] theorem raiseFlags_cfg (s : State) : (raiseFlags s).cfg = s.cfg := rfl
@[simp] theorem raiseFlags_status (s : State) : (raiseFlags s).status = s.status := rfl
@[simp] theorem raiseFlags_pix (s : State) : (raiseFlags s).pix = s.pix := rfl
@[simp] theorem raiseFlags_buf (s : State) : (raiseFlags s).buf = s.buf := rfl
@[simp] theorem raiseFlags_out (s : State) : (raiseFlags s).out = s.out := rfl
@[simp] theorem raiseFlags_outMark (s : State) : (raiseFlags s).outMark = s.outMark := rfl
@[simp] theorem raiseFlags_encCalls (s : State) : (raiseFlags s).encCalls = s.encCalls := rfl
@[simp] theorem raiseFlags_disableCnt (s : State) : (raiseFlags s).disableCnt = s.disableCnt := rfl
@[simp] theorem raiseFlags_overrun (s : State) : (raiseFlags s).overrun = (s.overrun || ((s.pendHalf || decide (s.rd = s.params.half)) && (s.pendFull || decide (s.rd = 0)))) := rfl
@[simp] theorem raiseFlags_fault (s : State) : (raiseFlags s).fault = s.fault := rfl
@[simp] theorem raiseFlags_refused (s : State) : (raiseFlags s).refused = s.refused := rfl
@[simp] theorem raiseFlags_cmds (s : State) : (raiseFlags s).cmds = s.cmds := rfl
@[simp] theorem raiseFlags_work (s : State) : (raiseFlags s).work = s.work := rfl
@[simp] theorem raiseFlags_sched (s : State) : (raiseFlags s).sched = s.sched := rfl
@[simp] theorem raiseFlags_fresh (s : State) : (raiseFlags s).fresh = s.fresh := rfl

/-! `deliver` -/

@[simp] theorem deliver_params (s : State) : (deliver s).params = s.params := rfl
@[simp] theorem deliver_cursor (s : State) : (deliver s).cursor = s.cursor := rfl
@[simp] theorem deliver_rd (s : State) : (deliver s).rd = (s.rd + 1) % s.params.buflen := rfl
@[simp] theorem deliver_ccr (s : State) : (deliver s).ccr = bufRead s s.rd := rfl
@[simp] theorem deliver_st (s : State) : (deliver s).st = s.st := rfl
@[simp] theorem deliver_xferEn (s : State) : (deliver s).xferEn = s.xferEn := rfl
@[simp] theorem deliver_pendHalf (s : State) : (deliver s).pendHalf = (s.pendHalf || decide ((s.rd + 1) % s.params.buflen = s.params.half)) := rfl
@[simp] theorem deliver_pendFull (s : State) : (deliver s).pendFull = (s.pendFull || decide ((s.rd + 1) % s.params.buflen = 0)) := rfl
@[simp] theorem deliver_initState (s : State) : (deliver s).initState = s.initState := rfl
@[simp] theorem deliver_cfg (s : State) : (deliver s).cfg = s.cfg := rfl
@[simp] theorem deliver_status (s : State) : (deliver s).status = s.status := rfl
@[simp] theorem deliver_pix (s : State) : (deliver s).pix = s.pix := rfl
@[simp] theorem deliver_buf (s : State) : (deliver s).buf = s.buf := rfl
@[simp] theorem deliver_out (s : State) : (deliver s).out = s.out ++ [bufRead s s.rd] := rfl
@[simp] theorem deliver_outMark (s : State) : (deliver s).outMark = s.outMark := rfl
@[simp] theorem deliver_encCalls (s : State) : (deliver s).encCalls = s.encCalls := rfl
@[simp] theorem deliver_disableCnt (s : State) : (deliver s).disableCnt = s.disableCnt := rfl
@[simp] theorem deliver_overrun (s : State) : (deliver s).overrun = (s.overrun || ((s.pendHalf || decide ((s.rd + 1) % s.params.buflen = s.params.half)) && (s.pendFull || decide ((s.rd + 1) % s.params.buflen = 0)))) := rfl
@[simp] theorem deliver_fault (s : State) : (deliver s).fault = s.fault := rfl
@[simp] theorem deliver_refused (s : State) : (deliver s).refused = s.refused := rfl
@[simp] theorem deliver_cmds (s : State) : (deliver s).cmds = s.cmds := rfl
@[simp] theorem deliver_work (s : State) : (deliver s).work = s.work := rfl
@[simp] theorem deliver_sched (s : State) : (deliver s).sched = s.sched := rfl
@[simp] theorem deliver_fresh (s : State) : (deliver s).fresh = s.fresh := rfl

/-! `terminate` -/

@[simp] theorem terminate_params (s : State) : (terminate s).params = s.params := rfl
@[simp] theorem terminate_cursor (s : State) : (terminate s).cursor = s.cursor := rfl
@[simp] theorem terminate_rd (s : State) : (terminate s).rd = s.rd := rfl
@[simp] theorem terminate_ccr (s : State) : (terminate s).ccr = s.ccr := rfl
@[simp] theorem terminate_st (s : State) : (terminate s).st = .done := rfl
@[simp] theorem terminate_xferEn (s : State) : (terminate s).xferEn = false := rfl
@[simp] theorem terminate_pendHalf (s : State) : (terminate s).pendHalf = false := rfl
@[simp] theorem terminate_pendFull (s : State) : (terminate s).pendFull = false := rfl
@[simp] theorem terminate_initState (s : State) : (terminate s).initState = s.initState := rfl
@[simp] theorem terminate_cfg (s : State) : (terminate s).cfg = s.cfg := rfl
@[simp] theorem terminate_status (s : State) : (terminate s).status = s.status := rfl
@[simp] theorem terminate_pix (s : State) : (terminate s).pix = s.pix := rfl
@[simp] theorem terminate_buf (s : State) : (terminate s).buf = s.buf := rfl
@[simp] theorem terminate_out (s : State) : (terminate s).out = s.out := rfl
@[simp] theorem terminate_outMark (s : State) : (terminate s).outMark = s.outMark := rfl
@[simp] theorem terminate_encCalls (s : State) : (terminate s).encCalls = s.encCalls := rfl
@[simp] theorem terminate_disableCnt (s : State) : (terminate s).disableCnt = s.disableCnt + 1 := rfl
@[simp] theorem terminate_overrun (s : State) : (terminate s).overrun = s.overrun := rfl
@[simp] theorem terminate_fault (s : State) : (terminate s).fault = s.fault := rfl
@[simp] theorem terminate_refused (s : State) : (terminate s).refused = s.refused := rfl
@[simp] theorem terminate_cmds (s : State) : (terminate s).cmds = s.cmds := rfl
@[simp] theorem terminate_work (s : State) : (terminate s).work = s.work := rfl
@[simp] theorem terminate_sched (s : State) : (terminate s).sched = s.sched := rfl
@[simp] theorem terminate_fresh (s : State) : (terminate s).fresh = s.fresh := rfl

/-! `pixWrite` -/

@[simp] theorem pixWrite_params (s : State) (w : PixWrite) : (pixWrite s w).params = s.params := rfl
@[simp] theorem pixWrite_cursor (s : State) (w : PixWrite) : (pixWrite s w).cursor = s.cursor := rfl
@[simp] theorem pixWrite_rd (s : State) (w : PixWrite) : (pixWrite s w).rd = s.rd := rfl
@[simp] theorem pixWrite_ccr (s : State) (w : PixWrite) : (pixWrite s w).ccr = s.ccr := rfl
@[simp] theorem pixWrite_st (s : State) (w : PixWrite) : (pixWrite s w).st = s.st := rfl
@[simp] theorem pixWrite_xferEn (s : State) (w : PixWrite) : (pixWrite s w).xferEn = s.xferEn := rfl
@[simp] theorem pixWrite_pendHalf (s : State) (w : PixWrite) : (pixWrite s w).pendHalf = s.pendHalf := rfl
@[simp] theorem pixWrite_pendFull (s : State) (w : PixWrite) : (pixWrite s w).pendFull = s.pendFull := rfl
@[simp] theorem pixWrite_initState (s : State) (w : PixWrite) : (pixWrite s w).initState = s.initState := rfl
@[simp] theorem pixWrite_cfg (s : State) (w : PixWrite) : (pixWrite s w).cfg = s.cfg := rfl
@[simp] theorem pixWrite_status (s : State) (w : PixWrite) : (pixWrite s w).status = s.status := rfl
@[simp] theorem pixWrite_pix (s : State) (w : PixWrite) : (pixWrite s w).pix = Memory.put s.pix (pixAddr w.index w.chan) w.value := rfl
@[simp] theorem pixWrite_buf (s : State) (w : PixWrite) : (pixWrite s w).buf = s.buf := rfl
@[simp] theorem pixWrite_out (s : State) (w : PixWrite) : (pixWrite s w).out = s.out := rfl
@[simp] theorem pixWrite_outMark (s : State) (w : PixWrite) : (pixWrite s w).outMark = s.outMark := rfl
@[simp] theorem pixWrite_encCalls (s : State) (w : PixWrite) : (pixWrite s w).encCalls = s.encCalls := rfl
@[simp] theorem pixWrite_disableCnt (s : State) (w : PixWrite) : (pixWrite s w).disableCnt = s.disableCnt := rfl
@[simp] theorem pixWrite_overrun (s : State) (w : PixWrite) : (pixWrite s w).overrun = s.overrun := rfl
@[simp] theorem pixWrite_fault (s : State) (w : PixWrite) : (pixWrite s w).fault = s.fault := rfl
@[simp] theorem pixWrite_refused (s : State) (w : PixWrite) : (pixWrite s w).refused = s.refused := rfl
@[simp] theorem pixWrite_cmds (s : State) (w : PixWrite) : (pixWrite s w).cmds = s.cmds := rfl
@[simp] theorem pixWrite_work (s : State) (w : PixWrite) : (pixWrite s w).work = s.work := rfl
@[simp] theorem pixWrite_sched (s : State) (w : PixWrite) : (pixWrite s w).sched = s.sched := rfl
@[simp] theorem pixWrite_fresh (s : State) (w : PixWrite) : (pixWrite s w).fresh = s.fresh := rfl

/-! `encSlot` -/

@[simp] theorem encSlot_params (base idx : Nat) (s : State) : (encSlot base idx s).params = s.params := rfl
@[simp] theorem encSlot_cursor (base idx : Nat) (s : State) : (encSlot base idx s).cursor = s.cursor := rfl
@[simp] theorem encSlot_rd (base idx : Nat) (s : State) : (encSlot base idx s).rd = s.rd := rfl
@[simp] theorem encSlot_ccr (base idx : Nat) (s : State) : (encSlot base idx s).ccr = s.ccr := rfl
@[simp] theorem encSlot_st (base idx : Nat) (s : State) : (encSlot base idx s).st = s.st := rfl
@[simp] theorem encSlot_xferEn (base idx : Nat) (s : State) : (encSlot base idx s).xferEn = s.xferEn := rfl
@[simp] theorem encSlot_pendHalf (base idx : Nat) (s : State) : (encSlot base idx s).pendHalf = s.pendHalf := rfl
@[simp] theorem encSlot_pendFull (base idx : Nat) (s : State) : (encSlot base idx s).pendFull = s.pendFull := rfl
@[simp] theorem encSlot_initState (base idx : Nat) (s : State) : (encSlot base idx s).initState = s.initState := rfl
@[simp] theorem encSlot_cfg (base idx : Nat) (s : State) : (encSlot base idx s).cfg = s.cfg := rfl
@[simp] theorem encSlot_status (base idx : Nat) (s : State) : (encSlot base idx s).status = s.status := rfl
@[simp] theorem encSlot_pix (base idx : Nat) (s : State) : (encSlot base idx s).pix = s.pix := rfl
@[simp] theorem encSlot_buf (base idx : Nat) (s : State) : (encSlot base idx s).buf = Memory.putAll s.buf base (slotSymbols s idx) := rfl
@[simp] theorem encSlot_out (base idx : Nat) (s : State) : (encSlot base idx s).out = s.out := rfl
@[simp] theorem encSlot_outMark (base idx : Nat) (s : State) : (encSlot base idx s).outMark = s.outMark := rfl
@[simp] theorem encSlot_encCalls (base idx : Nat) (s : State) : (encSlot base idx s).encCalls = s.encCalls := rfl
@[simp] theorem encSlot_disableCnt (base idx : Nat) (s : State) : (encSlot base idx s).disableCnt = s.disableCnt := rfl
@[simp] theorem encSlot_overrun (base idx : Nat) (s : State) : (encSlot base idx s).overrun = s.overrun := rfl
@[simp] theorem encSlot_fault (base idx : Nat) (s : State) : (encSlot base idx s).fault = s.fault := rfl
@[simp] theorem encSlot_refused (base idx : Nat) (s : State) : (encSlot base idx s).refused = s.refused := rfl
@[simp] theorem encSlot_cmds (base idx : Nat) (s : State) : (encSlot base idx s).cmds = s.cmds := rfl
@[simp] theorem encSlot_work (base idx : Nat) (s : State) : (encSlot base idx s).work = s.work := rfl
@[simp] theorem encSlot_sched (base idx : Nat) (s : State) : (encSlot base idx s).sched = s.sched := rfl
@[simp] theorem encSlot_fresh (base idx : Nat) (s : State) : (encSlot base idx s).fresh = s.fresh := rfl

/-! `displayD2` -/

@[simp] theorem displayD2_params (s : State) : (displayD2 s).params = s.params := rfl
@[simp] theorem displayD2_cursor (s : State) : (displayD2 s).cursor = 0 := rfl
@[simp] theorem displayD2_rd (s : State) : (displayD2 s).rd = s.rd := rfl
@[simp] theorem displayD2_ccr (s : State) : (displayD2 s).ccr = s.ccr := rfl
@[simp] theorem displayD2_st (s : State) : (displayD2 s).st = s.st := rfl
@[simp] theorem displayD2_xferEn (s : State) : (displayD2 s).xferEn = s.xferEn := rfl
@[simp] theorem displayD2_pendHalf (s : State) : (displayD2 s).pendHalf = s.pendHalf := rfl
@[simp] theorem displayD2_pendFull (s : State) : (displayD2 s).pendFull = s.pendFull := rfl
@[simp] theorem displayD2_initState (s : State) : (displayD2 s).initState = s.initState := rfl
@[simp] theorem displayD2_cfg (s : State) : (displayD2 s).cfg = s.cfg := rfl
@[simp] theorem displayD2_status (s : State) : (displayD2 s).status = s.status := rfl
@[simp] theorem displayD2_pix (s : State) : (displayD2 s).pix = s.pix := rfl
@[simp] theorem displayD2_buf (s : State) : (displayD2 s).buf = s.buf := rfl
@[simp] theorem displayD2_out (s : State) : (displayD2 s).out = s.out := rfl
@[simp] theorem displayD2_outMark (s : State) : (displayD2 s).outMark = s.outMark := rfl
@[simp] theorem displayD2_encCalls (s : State) : (displayD2 s).encCalls = 0 := rfl
@[simp] theorem displayD2_disableCnt (s : State) : (displayD2 s).disableCnt = 0 := rfl
@[simp] theorem displayD2_overrun (s : State) : (displayD2 s).overrun = s.overrun := rfl
@[simp] theorem displayD2_fault (s : State) : (displayD2 s).fault = s.fault := rfl
@[simp] theorem displayD2_refused (s : State) : (displayD2 s).refused = s.refused := rfl
@[simp] theorem displayD2_cmds (s : State) : (displayD2 s).cmds = s.cmds := rfl
@[simp] theorem displayD2_work (s : State) : (displayD2 s).work = .display .d3 := rfl
@[simp] theorem displayD2_sched (s : State) : (displayD2 s).sched = s.sched := rfl
@[simp] theorem displayD2_fresh (s : State) : (displayD2 s).fresh = s.fresh := rfl

/-! `displayD5` -/

@[simp] theorem displayD5_params (s : State) : (displayD5 s).params = s.params := rfl
@[simp] theorem displayD5_cursor (s : State) : (displayD5 s).cursor = s.cursor := rfl
@[simp] theorem displayD5_rd (s : State) : (displayD5 s).rd = 0 := rfl
@[simp] theorem displayD5_ccr (s : State) : (displayD5 s).ccr = s.ccr := rfl
@[simp] theorem displayD5_st (s : State) : (displayD5 s).st = .streaming := rfl
@[simp] theorem displayD5_xferEn (s : State) : (displayD5 s).xferEn = true := rfl
@[simp] theorem displayD5_pendHalf (s : State) : (displayD5 s).pendHalf = s.pendHalf := rfl
@[simp] theorem displayD5_pendFull (s : State) : (displayD5 s).pendFull = s.pendFull := rfl
@[simp] theorem displayD5_initState (s : State) : (displayD5 s).initState = s.initState := rfl
@[simp] theorem displayD5_cfg (s : State) : (displayD5 s).cfg = s.cfg := rfl
@[simp] theorem displayD5_status (s : State) : (displayD5 s).status = s.status := rfl
@[simp] theorem displayD5_pix (s : State) : (displayD5 s).pix = s.pix := rfl
@[simp] theorem displayD5_buf (s : State) : (displayD5 s).buf = s.buf := rfl
@[simp] theorem displayD5_out (s : State) : (displayD5 s).out = s.out := rfl
@[simp] theorem displayD5_outMark (s : State) : (displayD5 s).outMark = s.out.length := rfl
@[simp] theorem displayD5_encCalls (s : State) : (displayD5 s).encCalls = s.encCalls := rfl
@[simp] theorem displayD5_disableCnt (s : State) : (displayD5 s).disableCnt = s.disableCnt := rfl
@[simp] theorem displayD5_overrun (s : State) : (displayD5 s).overrun = s.overrun := rfl
@[simp] theorem displayD5_fault (s : State) : (displayD5 s).fault = s.fault := rfl
@[simp] theorem displayD5_refused (s : State) : (displayD5 s).refused = s.refused := rfl
@[simp] theorem displayD5_cmds (s : State) : (displayD5 s).cmds = s.cmds := rfl
@[simp] theorem displayD5_work (s : State) : (displayD5 s).work = .idle := rfl
@[simp] theorem displayD5_sched (s : State) : (displayD5 s).sched = s.sched := rfl
@[simp] theorem displayD5_fresh (s : State) : (displayD5 s).fresh = s.fresh := rfl

/-! `initFailed` -/

@[simp] theorem initFailed_params (s : State) : (initFailed s).params = s.params := rfl
@[simp] theorem initFailed_cursor (s : State) : (initFailed s).cursor = s.cursor := rfl
@[simp] theorem initFailed_rd (s : State) : (initFailed s).rd = s.rd := rfl
@[simp] theorem initFailed_ccr (s : State) : (initFailed s).ccr = s.ccr := rfl
@[simp] theorem initFailed_st (s : State) : (initFailed s).st = s.st := rfl
@[simp] theorem initFailed_xferEn (s : State) : (initFailed s).xferEn = s.xferEn := rfl
@[simp] theorem initFailed_pendHalf (s : State) : (initFailed s).pendHalf = s.pendHalf := rfl
@[simp] theorem initFailed_pendFull (s : State) : (initFailed s).pendFull = s.pendFull := rfl
@[simp] theorem initFailed_initState (s : State) : (initFailed s).initState = .failed := rfl
@[simp] theorem initFailed_cfg (s : State) : (initFailed s).cfg = Config.failedCfg s.fresh := rfl
@[simp] theorem initFailed_status (s : State) : (initFailed s).status = .configError := rfl
@[simp] theorem initFailed_pix (s : State) : (initFailed s).pix = s.pix := rfl
@[simp] theorem initFailed_buf (s : State) : (initFailed s).buf = s.buf := rfl
@[simp] theorem initFailed_out (s : State) : (initFailed s).out = s.out := rfl
@[simp] theorem initFailed_outMark (s : State) : (initFailed s).outMark = s.outMark := rfl
@[simp] theorem initFailed_encCalls (s : State) : (initFailed s).encCalls = s.encCalls := rfl
@[simp] theorem initFailed_disableCnt (s : State) : (initFailed s).disableCnt = s.disableCnt := rfl
@[simp] theorem initFailed_overrun (s : State) : (initFailed s).overrun = s.overrun := rfl
@[simp] theorem initFailed_fault (s : State) : (initFailed s).fault = s.fault := rfl
@[simp] theorem initFailed_refused (s : State) : (initFailed s).refused = s.refused := rfl
@[simp] theorem initFailed_cmds (s : State) : (initFailed s).cmds = s.cmds := rfl
@[simp] theorem initFailed_work (s : State) : (initFailed s).work = s.work := rfl
@[simp] theorem initFailed_sched (s : State) : (initFailed s).sched = s.sched := rfl
@[simp] theorem initFailed_fresh (s : State) : (initFailed s).fresh = s.fresh + 1 := rfl

/-! `initReady` -/

@[simp] theorem initReady_params (c : CfgRegs) (s : State) : (initReady c s).params = s.params := rfl
@[simp] theorem initReady_cursor (c : CfgRegs) (s : State) : (initReady c s).cursor = s.cursor := rfl
@[simp] theorem initReady_rd (c : CfgRegs) (s : State) : (initReady c s).rd = s.rd := rfl
@[simp] theorem initReady_ccr (c : CfgRegs) (s : State) : (initReady c s).ccr = s.ccr := rfl
@[simp] theorem initReady_st (c : CfgRegs) (s : State) : (initReady c s).st = .idle := rfl
@[simp] theorem initReady_xferEn (c : CfgRegs) (s : State) : (initReady c s).xferEn = false := rfl
@[simp] theorem initReady_pendHalf (c : CfgRegs) (s : State) : (initReady c s).pendHalf = false := rfl
@[simp] theorem initReady_pendFull (c : CfgRegs) (s : State) : (initReady c s).pendFull = false := rfl
@[simp] theorem initReady_initState (c : CfgRegs) (s : State) : (initReady c s).initState = .ready := rfl
@[simp] theorem initReady_cfg (c : CfgRegs) (s : State) : (initReady c s).cfg = c := rfl
@[simp] theorem initReady_status (c : CfgRegs) (s : State) : (initReady c s).status = .ok := rfl
@[simp] theorem initReady_pix (c : CfgRegs) (s : State) : (initReady c s).pix = s.pix := rfl
@[simp] theorem initReady_buf (c : CfgRegs) (s : State) : (initReady c s).buf = s.buf := rfl
@[simp] theorem initReady_out (c : CfgRegs) (s : State) : (initReady c s).out = s.out := rfl
@[simp] theorem initReady_outMark (c : CfgRegs) (s : State) : (initReady c s).outMark = s.outMark := rfl
@[simp] theorem initReady_encCalls (c : CfgRegs) (s : State) : (initReady c s).encCalls = s.encCalls := rfl
@[simp] theorem initReady_disableCnt (c : CfgRegs) (s : State) : (initReady c s).disableCnt = s.disableCnt := rfl
@[simp] theorem initReady_overrun (c : CfgRegs) (s : State) : (initReady c s).overrun = s.overrun := rfl
@[simp] theorem initReady_fault (c : CfgRegs) (s : State) : (initReady c s).fault = s.fault := rfl
@[simp] theorem initReady_refused (c : CfgRegs) (s : State) : (initReady c s).refused = s.refused := rfl
@[simp] theorem initReady_cmds (c : CfgRegs) (s : State) : (initReady c s).cmds = s.cmds := rfl
@[simp] theorem initReady_work (c : CfgRegs) (s : State) : (initReady c s).work = s.work := rfl
@[simp] theorem initReady_sched (c : CfgRegs) (s : State) : (initReady c s).sched = s.sched := rfl
@[simp] theorem initReady_fresh (c : CfgRegs) (s : State) : (initReady c s).fresh = s.fresh := rfl

/-! `dropChoice` -/

@[simp] theorem dropChoice_params (s : State) : (dropChoice s).params = s.params := by
  unfold dropChoice; split <;> simp [*]
@[simp] theorem dropChoice_cursor (s : State) : (dropChoice s).cursor = s.cursor := by
  unfold dropChoice; split <;> simp [*]
@[simp] theorem dropChoice_rd (s : State) : (dropChoice s).rd = s.rd := by
  unfold dropChoice; split <;> simp [*]
@[simp] theorem dropChoice_ccr (s : State) : (dropChoice s).ccr = s.ccr := by
  unfold dropChoice; split <;> simp [*]
@[simp] theorem dropChoice_st (s : State) : (dropChoice s).st = s.st := by
  unfold dropChoice; split <;> simp [*]
@[simp] theorem dropChoice_xferEn (s : State) : (dropChoice s).xferEn = s.xferEn := by
  unfold dropChoice; split <;> simp [*]
@[simp] theorem dropChoice_pendHalf (s : State) : (dropChoice s).pendHalf = s.pendHalf := by
  unfold dropChoice; split <;> simp [*]
@[simp] theorem dropChoice_pendFull (s : State) : (dropChoice s).pendFull = s.pendFull := by
  unfold dropChoice; split <;> simp [*]
@[simp] theorem dropChoice_initState (s : State) : (dropChoice s).initState = s.initState := by
  unfold dropChoice; split <;> simp [*]
@[simp] theorem dropChoice_cfg (s : State) : (dropChoice s).cfg = s.cfg := by
  unfold dropChoice; split <;> simp [*]
@[simp] theorem dropChoice_status (s : State) : (dropChoice s).status = s.status := by
  unfold dropChoice; split <;> simp [*]
@[simp] theorem dropChoice_pix (s : State) : (dropChoice s).pix = s.pix := by
  unfold dropChoice; split <;> simp [*]
@[simp] theorem dropChoice_buf (s : State) : (dropChoice s).buf = s.buf := by
  unfold dropChoice; split <;> simp [*]
@[simp] theorem dropChoice_out (s : State) : (dropChoice s).out = s.out := by
  unfold dropChoice; split <;> simp [*]
@[simp] theorem dropChoice_outMark (s : State) : (dropChoice s).outMark = s.outMark := by
  unfold dropChoice; split <;> simp [*]
@[simp] theorem dropChoice_encCalls (s : State) : (dropChoice s).encCalls = s.encCalls := by
  unfold dropChoice; split <;> simp [*]
@[simp] theorem dropChoice_disableCnt (s : State) : (dropChoice s).disableCnt = s.disableCnt := by
  unfold dropChoice; split <;> simp [*]
@[simp] theorem dropChoice_overrun (s : State) : (dropChoice s).overrun = s.overrun := by
  unfold dropChoice; split <;> simp [*]
@[simp] theorem dropChoice_fault (s : State) : (dropChoice s).fault = s.fault := by
  unfold dropChoice; split <;> simp [*]
@[simp] theorem dropChoice_refused (s : State) : (dropChoice s).refused = s.refused := by
  unfold dropChoice; split <;> simp [*]
@[simp] theorem dropChoice_cmds (s : State) : (dropChoice s).cmds = s.cmds := by
  unfold dropChoice; split <;> simp [*]
@[simp] theorem dropChoice_work (s : State) : (dropChoice s).work = s.work := by
  unfold dropChoice; split <;> simp [*]
@[simp] theorem dropChoice_sched (s : State) : (dropChoice s).sched = s.sched.tail := by
  unfold dropChoice; split <;> simp [*]

end Sys2Proof.Machine
end

