-- ==== Sys2Proof/Laws/Ops.lean ====
section
/-! SUPPORT. What each shared operation can do, said once: the encodings' lengths, ENCODE_HALF, the handler, a byte-write
micro-step, and the outcomes of the meanings. -/

namespace Sys2Proof.Machine

/-! ### Sizes -/

theorem buflen_eq (p : Params) : p.buflen = 2 * p.half := by simp only [Params.buflen, Params.half]; omega

@[simp] theorem encByte_length (p : Params) (v : Byte) : (encByte p v).length = 8 := rfl

@[simp] theorem encPixel_length (p : Params) (r g b : Byte) : (encPixel p r g b).length = 24 := rfl

@[simp] theorem trailingSlot_length (p : Params) : (trailingSlot p).length = 24 := List.length_replicate

/-- A slot is 24 symbols (R54, R55). -/
@[simp] theorem slotSymbols_length (s : State) (idx : Nat) : (slotSymbols s idx).length = 24 := by
  unfold slotSymbols; split <;> simp

/-- The symbols of a slot depend on the parameters and the Pixel Store alone. -/
theorem slotSymbols_congr {s t : State} (hp : t.params = s.params) (hx : t.pix = s.pix) (idx : Nat) :
    slotSymbols t idx = slotSymbols s idx := by
  simp only [slotSymbols, pixRead, pixReadAt, hp, hx]

theorem sym_cases (p : Params) (x : Bool) : sym p x = p.highBit ∨ sym p x = p.lowBit := by
  cases x
  · exact .inr rfl
  · exact .inl rfl

theorem mem_encByte {p : Params} {v y : Byte} (h : y ∈ encByte p v) : y = p.highBit ∨ y = p.lowBit := by
  obtain ⟨k, -, rfl⟩ := List.mem_map.1 h
  exact sym_cases p _

/-- Every symbol of a slot is `HIGH_BIT` or `LOW_BIT` (R84). -/
theorem mem_slotSymbols {s : State} {idx : Nat} {y : Byte} (h : y ∈ slotSymbols s idx) :
    y = s.params.highBit ∨ y = s.params.lowBit := by
  unfold slotSymbols at h
  split at h
  · simp only [encPixel, List.mem_append] at h
    rcases h with (h | h) | h <;> exact mem_encByte h
  · exact .inr (List.eq_of_mem_replicate h)

/-! ### ENCODE_HALF -/

/-- What the first `k` iterations leave alone, and the cursor they leave. -/
theorem encIterations_frame (h : Half) (k : Nat) (s : State) :
    encIterations h k s = { s with buf := (encIterations h k s).buf, cursor := s.cursor + k } := by
  induction k with
  | zero => rfl
  | succ k ih =>
    rw [encIterations, ih]
    rfl

/-- `ENCODE_HALF` changes the buffer, the cursor and the ghost count, nothing else (R82). -/
theorem encodeHalf_frame (h : Half) (s : State) :
    encodeHalf h s =
      { s with buf := (encodeHalf h s).buf, cursor := s.cursor + s.params.b, encCalls := s.encCalls + 1 } := by
  simp only [encodeHalf]
  rw [encIterations_frame]

theorem encIterations_succ_buf (h : Half) (k : Nat) (s : State) :
    (encIterations h (k + 1) s).buf =
      Memory.putAll (encIterations h k s).buf (slotAddr s.params h k) (slotSymbols s (s.cursor + k)) := by
  have e := encIterations_frame h k s
  simp only [encIterations, encIteration, encSlot_buf]
  rw [e]
  rfl

/-- The buffer after `k` iterations, byte by byte: the new slots below `k`, the old buffer elsewhere. -/
theorem get_encIterations (h : Half) (k : Nat) (s : State) (j : Nat) :
    Memory.get (encIterations h k s).buf j =
      if halfBase s.params h ≤ j ∧ j < halfBase s.params h + 24 * k then
        (slotSymbols s (s.cursor + (j - halfBase s.params h) / 24))[(j - halfBase s.params h) % 24]?
      else Memory.get s.buf j := by
  induction k with
  | zero =>
    rw [if_neg (by omega)]
    rfl
  | succ k ih =>
    rw [encIterations_succ_buf, Memory.get_putAll, ih, slotSymbols_length, slotAddr]
    by_cases h1 : halfBase s.params h + 24 * k ≤ j ∧ j < halfBase s.params h + 24 * k + 24
    · have h2 : (j - halfBase s.params h) / 24 = k := by omega
      have h3 : (j - halfBase s.params h) % 24 = j - (halfBase s.params h + 24 * k) := by omega
      have h4 : halfBase s.params h ≤ j ∧ j < halfBase s.params h + 24 * (k + 1) := by omega
      rw [if_pos h1, if_pos h4, h2, h3]
    · rw [if_neg h1]
      by_cases h5 : halfBase s.params h ≤ j ∧ j < halfBase s.params h + 24 * k
      · rw [if_pos h5, if_pos ⟨h5.1, by omega⟩]
      · rw [if_neg h5, if_neg (by omega)]

/-- `ENCODE_HALF h`, byte by byte (R82, R84): slot `cursor + i` at slot `i` of half `h`, the old buffer elsewhere. -/
theorem get_encodeHalf (h : Half) (s : State) (j : Nat) :
    Memory.get (encodeHalf h s).buf j =
      if halfBase s.params h ≤ j ∧ j < halfBase s.params h + s.params.half then
        (slotSymbols s (s.cursor + (j - halfBase s.params h) / 24))[(j - halfBase s.params h) % 24]?
      else Memory.get s.buf j :=
  get_encIterations h s.params.b s j

/-- Every cell after some iterations is a symbol of the half, or an old cell. -/
theorem mem_encIterations {h : Half} {k : Nat} {s : State} {c : Host.Cell} (hc : c ∈ (encIterations h k s).buf) :
    (halfBase s.params h ≤ c.1 ∧ c.1 < halfBase s.params h + 24 * k ∧ (c.2 = s.params.highBit ∨ c.2 = s.params.lowBit)) ∨
      c ∈ s.buf := by
  induction k with
  | zero => exact .inr hc
  | succ k ih =>
    rw [encIterations_succ_buf] at hc
    rcases Memory.mem_putAll hc with ⟨h1, h2, h3⟩ | hc
    · rw [slotSymbols_length, slotAddr] at h2
      rw [slotAddr] at h1
      exact .inl ⟨by omega, by omega, mem_slotSymbols h3⟩
    · exact (ih hc).imp_left fun ⟨h1, h2, h3⟩ => ⟨h1, by omega, h3⟩

theorem mem_encodeHalf {h : Half} {s : State} {c : Host.Cell} (hc : c ∈ (encodeHalf h s).buf) :
    (halfBase s.params h ≤ c.1 ∧ c.1 < halfBase s.params h + s.params.half ∧
      (c.2 = s.params.highBit ∨ c.2 = s.params.lowBit)) ∨ c ∈ s.buf :=
  mem_encIterations hc

/-- `ENCODE_HALF` keeps the canonical form of the buffer. -/
theorem wf_encodeHalf (h : Half) {s : State} (hs : Memory.wf s.buf) : Memory.wf (encodeHalf h s).buf := by
  have key : ∀ k, Memory.wf (encIterations h k s).buf := by
    intro k
    induction k with
    | zero => exact hs
    | succ k ih => rw [encIterations_succ_buf]; exact Memory.wf_putAll _ _ ih
  exact key s.params.b

/-- Every byte of the half that `ENCODE_HALF` fills has been written, and no written byte is lost. -/
theorem isSome_get_encodeHalf {s : State} (h : Half) {j : Nat}
    (hj : (halfBase s.params h ≤ j ∧ j < halfBase s.params h + s.params.half) ∨ (Memory.get s.buf j).isSome = true) :
    (Memory.get (encodeHalf h s).buf j).isSome = true := by
  rw [get_encodeHalf]
  split
  · simp [Nat.mod_lt]
  · rcases hj with hj | hj
    · exact absurd hj ‹_›
    · exact hj

/-! ### The frame of a display request -/

theorem frameSlots_succ (s : State) (m : Nat) : frameSlots s (m + 1) = frameSlots s m ++ slotSymbols s m := by
  simp [frameSlots, List.range_succ]

@[simp] theorem frameSlots_length (s : State) (m : Nat) : (frameSlots s m).length = 24 * m := by
  induction m with
  | zero => rfl
  | succ m ih => rw [frameSlots_succ, List.length_append, ih, slotSymbols_length]; omega

/-- Symbol `j` of the frame is symbol `j mod 24` of slot `j div 24` (R99). -/
theorem getElem?_frameSlots (s : State) {m j : Nat} (h : j < 24 * m) :
    (frameSlots s m)[j]? = (slotSymbols s (j / 24))[j % 24]? := by
  induction m with
  | zero => omega
  | succ m ih =>
    rw [frameSlots_succ]
    by_cases x : j < 24 * m
    · rw [List.getElem?_append_left (by rw [frameSlots_length]; exact x), ih x]
    · have e1 : j / 24 = m := by omega
      have e2 : j % 24 = j - 24 * m := by omega
      rw [List.getElem?_append_right (by rw [frameSlots_length]; omega), frameSlots_length, e1, e2]

/-- `K = ceil(N/B)`: `K * B` is the least multiple of `B` that is at least `N`, and `K >= 1` (R97). -/
theorem signals_spec {p : Params} (h : p.Ok) :
    p.n ≤ p.signals * p.b ∧ p.signals * p.b < p.n + p.b ∧ 1 ≤ p.signals := by
  have hb := h.b_pos
  have hn := h.n_pos
  have h1 := Nat.div_add_mod (p.n + p.b - 1) p.b
  have h2 := Nat.mod_lt (p.n + p.b - 1) hb
  have e : p.signals * p.b = p.b * ((p.n + p.b - 1) / p.b) := by rw [Params.signals, Nat.mul_comm]
  refine ⟨by omega, by omega, ?_⟩
  rw [Params.signals, Nat.le_div_iff_mul_le hb]
  omega

/-! ### The handler -/

/-- What the handler can do (R89, R93): terminate at or past the threshold, refill below it. -/
theorem handler_cases (sig : Sig) (s : State) :
    (s.params.threshold ≤ s.cursor ∧ handler sig s = terminate s) ∨
      (s.cursor < s.params.threshold ∧ handler sig s = acknowledge sig (encodeHalf (sigHalf sig) s)) := by
  unfold handler refill
  split
  · exact .inl ⟨‹_›, rfl⟩
  · exact .inr ⟨Nat.lt_of_not_le ‹_›, rfl⟩

theorem irqStep_cases {sig : Sig} {s t : State} (h : irqStep sig s = .next t) : pending sig s = true ∧ t = handler sig s := by
  unfold irqStep at h
  split at h
  · exact ⟨‹_›, by simpa using h.symm⟩
  · cases h

/-- Using up a choice changes the schedule and the count of free values alone. -/
theorem dropChoice_eq (s : State) : ∃ sched fresh, dropChoice s = { s with sched := sched, fresh := fresh } := by
  unfold dropChoice
  split
  · exact ⟨_, _, rfl⟩
  · exact ⟨_, _, rfl⟩

/-! ### The HOST's micro-steps -/

/-- The write that a pick names is the one done (R69). -/
theorem writeStep_pick {pick : Nat} {ws : List PixWrite} {w : PixWrite} (s : State)
    (h : ws[pick % ws.length]? = some w) : WroteOne ws w s (writeStep pick ws s) := by
  obtain ⟨hk, rfl⟩ := List.getElem?_eq_some_iff.1 h
  refine ⟨ws.eraseIdx (pick % ws.length), List.getElem_cons_eraseIdx_perm hk, ?_⟩
  unfold writeStep
  rw [h]
  rfl

/-- One byte-write micro-step (R69): one of the remaining writes is done, the others remain. -/
theorem writeStep_cases (pick : Nat) {ws : List PixWrite} (s : State) (hws : ws ≠ []) :
    ∃ w, WroteOne ws w s (writeStep pick ws s) :=
  ⟨_, writeStep_pick s (List.getElem?_eq_getElem (Nat.mod_lt _ (List.length_pos_iff.2 hws)))⟩

/-- Any of the remaining writes is the one that some pick names (R69). -/
theorem writeStep_any {ws : List PixWrite} {w : PixWrite} (h : w ∈ ws) :
    ∃ pick, ∀ s : State, WroteOne ws w s (writeStep pick ws s) := by
  obtain ⟨k, hk, rfl⟩ := List.getElem_of_mem h
  refine ⟨k, fun s => writeStep_pick s ?_⟩
  rw [Nat.mod_eq_of_lt hk, List.getElem?_eq_getElem hk]

@[simp] theorem onNext_next (f : State → State) (t : State) : onNext f (.next t) = .next (f t) := rfl
@[simp] theorem onNext_fault (f : State → State) (r : Fault) : onNext f (.fault r) = .fault r := rfl
@[simp] theorem onNext_refused (f : State → State) (r : Refusal) : onNext f (.refused r) = .refused r := rfl

theorem onNext_eq_next {f : State → State} {o : Host.Outcome State Fault Refusal} {t : State}
    (h : onNext f o = .next t) : ∃ u, o = .next u ∧ t = f u := by
  cases o with
  | next u => exact ⟨u, rfl, by simpa using h.symm⟩
  | fault r => cases h
  | refused r => cases h

theorem whenHostFree_eq_next {s t : State} {o : Host.Outcome State Fault Refusal} (h : whenHostFree s o = .next t) :
    s.work = .idle ∧ o = .next t := by
  unfold whenHostFree at h
  split at h
  · exact ⟨‹_›, h⟩
  · cases h
  · cases h

@[simp] theorem whenHostFree_idle {s : State} (o : Host.Outcome State Fault Refusal) (h : s.work = .idle) :
    whenHostFree s o = o := by
  simp only [whenHostFree, h]

/-! ### The outcomes of the meanings -/

/-- What an `INIT` that completes does (R115). -/
theorem execInit_next {dmaCh timer outCh : BitVec 8} {clk : BitVec 32} {s t : State}
    (h : execInit dmaCh timer outCh clk s = .next t) :
    s.work = .idle ∧ s.initState = .uninit ∧ (t = initReady ⟨dmaCh, timer, outCh, clk⟩ s ∨ t = initFailed s) := by
  obtain ⟨hw, h⟩ := whenHostFree_eq_next h
  split at h
  · refine ⟨hw, ‹_›, ?_⟩
    cases h
    unfold initLoad
    split
    · split
      · exact .inl rfl
      · exact .inr rfl
    · exact .inr rfl
  · cases h
  · cases h

/-- What a `SET` that completes does first (R71). -/
theorem execSet_next {index : Nat} {r g b : Byte} {s t : State} (h : execSet index r g b s = .next t) :
    s.work = .idle ∧ index < s.params.n ∧ t = startWrites (setWrites s.params index r g b) s := by
  obtain ⟨hw, h⟩ := whenHostFree_eq_next h
  split at h
  · cases h
  · exact ⟨hw, Nat.lt_of_not_le ‹_›, by simpa using h.symm⟩

/-- What a `CLEAR` that completes does first (R72). -/
theorem execClear_next {index : Nat} {s t : State} (h : execClear index s = .next t) :
    s.work = .idle ∧ index < s.params.n ∧ t = startWrites (clearWrites index) s := by
  obtain ⟨hw, h⟩ := whenHostFree_eq_next h
  split at h
  · cases h
  · exact ⟨hw, Nat.lt_of_not_le ‹_›, by simpa using h.symm⟩

/-- What a `CLEAR_ALL` does first (R73). -/
theorem execClearAll_next {s t : State} (h : execClearAll s = .next t) :
    s.work = .idle ∧ t = startWrites (clearAllWrites s.params) s := by
  obtain ⟨hw, h⟩ := whenHostFree_eq_next h
  exact ⟨hw, by simpa using h.symm⟩

/-- What a `DISPLAY` that completes does first (R87 D1). -/
theorem execDisplay_next {s t : State} (h : execDisplay s = .next t) :
    s.work = .idle ∧ s.initState = .ready ∧ t = { s with xferEn := false, st := .armed, work := .display .d2 } := by
  obtain ⟨hw, h⟩ := whenHostFree_eq_next h
  split at h
  · exact ⟨hw, ‹_›, by simpa using h.symm⟩
  · cases h
  · cases h

/-- What a `STREAM` that completes does (R106). -/
theorem execStream_next {s t : State} (h : execStream s = .next t) :
    s.xferEn = true ∧ s.rd < s.params.buflen ∧ t = deliver s := by
  unfold execStream at h
  split at h
  · split at h
    · exact ⟨‹_›, ‹_›, by simpa using h.symm⟩
    · cases h
  · cases h

end Sys2Proof.Machine
end

