-- ==== Sys2Proof/Laws/PerInstr.lean ====
section
/-! SUPPORT. A statement about every operation as syntax: its encoded word matches its row of opcode_table.json. -/

/-- The word of a well-formed operation agrees with its table row on every bit the row's mask fixes, and those bits lie in
the mask (opcode_table.json; R60 to R62). -/
def Sys2Proof.Laws.TableRow.Statement (i : Sys2Proof.Instr) : Prop :=
  i.wellFormed = true →
    (Sys2Proof.encode i).bits &&& (Sys2Proof.tableRow i).mask = (Sys2Proof.tableRow i).pattern ∧
    (Sys2Proof.tableRow i).pattern &&& (Sys2Proof.tableRow i).mask = (Sys2Proof.tableRow i).pattern

namespace Sys2Proof.Laws.TableRow

/-- A mask acts on the parts of a concatenation one by one. -/
theorem and_append_eq {w v : Nat} {a m k : BitVec w} {x n l : BitVec v} (h1 : a &&& m = k) (h2 : x &&& n = l) :
    (a ++ x) &&& (m ++ n) = k ++ l := by
  rw [BitVec.and_append, h1, h2]

theorem init (dmaCh timer outCh : BitVec 8) (clk : BitVec 32) : Statement (.init dmaCh timer outCh clk) := by
  intro _
  refine ⟨?_, by simp only [tableRow]; decide⟩
  have hm : (0xFF00000000000000#64 : BitVec 64) = BitVec.allOnes 8 ++ 0#8 ++ 0#8 ++ 0#8 ++ 0#32 := by decide
  have hp : (0x0100000000000000#64 : BitVec 64) = 0x01#8 ++ 0#8 ++ 0#8 ++ 0#8 ++ 0#32 := by decide
  simp only [encode, OpWord.bits, tableRow, hm, hp]
  exact and_append_eq (and_append_eq (and_append_eq (and_append_eq BitVec.and_allOnes BitVec.and_zero) BitVec.and_zero)
    BitVec.and_zero) BitVec.and_zero

theorem set (index : Nat) (r g b : Byte) : Statement (.set index r g b) := by
  intro _
  refine ⟨?_, by simp only [tableRow]; decide⟩
  have hm : (0xFF00000000000000#64 : BitVec 64) = BitVec.allOnes 8 ++ 0#32 ++ 0#8 ++ 0#8 ++ 0#8 := by decide
  have hp : (0x0200000000000000#64 : BitVec 64) = 0x02#8 ++ 0#32 ++ 0#8 ++ 0#8 ++ 0#8 := by decide
  simp only [encode, OpWord.bits, tableRow, hm, hp]
  exact and_append_eq (and_append_eq (and_append_eq (and_append_eq BitVec.and_allOnes BitVec.and_zero) BitVec.and_zero)
    BitVec.and_zero) BitVec.and_zero

theorem clear (index : Nat) : Statement (.clear index) := by
  intro _
  refine ⟨?_, by simp only [tableRow]; decide⟩
  have hm : (0xFF00000000FFFFFF#64 : BitVec 64) = BitVec.allOnes 8 ++ 0#32 ++ BitVec.allOnes 24 := by decide
  have hp : (0x0300000000000000#64 : BitVec 64) = 0x03#8 ++ 0#32 ++ 0#24 := by decide
  simp only [encode, OpWord.bits, tableRow, hm, hp]
  exact and_append_eq (and_append_eq BitVec.and_allOnes BitVec.and_zero) BitVec.and_allOnes

theorem clearAll : Statement .clearAll := fun _ => by decide

theorem display : Statement .display := fun _ => by decide

theorem irqHt : Statement .irqHt := fun _ => by decide

theorem irqTc : Statement .irqTc := fun _ => by decide

theorem stream : Statement .stream := fun _ => by decide

theorem encodeHalf (h : Half) : Statement (.encodeHalf h) := by
  intro _
  cases h <;> decide

end Sys2Proof.Laws.TableRow
end

