-- ==== Sys2Proof/Laws/Step.lean ====
section
/-! SUPPORT. What one step can do, said once, for every later invariant. -/

namespace Sys2Proof.Machine

/-- What the HOST's turn can do when it answers a next state: nothing, for want of a command; the first micro-step of its next
command; or a micro-step of the one in progress. -/
theorem hostTurn_next {s t : State} (h : hostTurn s = .next t) :
    (s.work = .idle ∧ s.cmds = [] ∧ t = s) ∨
    (∃ w rest i, s.work = .idle ∧ s.cmds = w :: rest ∧ decodeCommand w = .ok i ∧
      exec i { s with cmds := rest } = .next t) ∨
    (∃ ws, s.work = .writes ws ∧ t = writeStep (nextChoice s).pick ws s) ∨
    (s.work = .display .d2 ∧ t = displayD2 s) ∨
    (s.work = .display .d3 ∧ t = { encodeHalf .h0 s with work := .display .d4 }) ∨
    (s.work = .display .d4 ∧ t = { encodeHalf .h1 s with work := .display .d5 }) ∨
    (s.work = .display .d5 ∧ t = displayD5 s) := by
  unfold hostTurn at h
  split at h
  · rename_i hw
    split at h
    · exact .inl ⟨hw, ‹_›, by simpa using h.symm⟩
    · rename_i w rest hc
      split at h
      · exact .inr (.inl ⟨w, rest, _, hw, hc, ‹_›, h⟩)
      · cases h
  · rename_i ws hw
    simp only [hostMicroWith, hw] at h
    exact .inr (.inr (.inl ⟨ws, hw, by simpa using h.symm⟩))
  · rename_i d hw
    cases d with
    | d2 =>
      simp only [hostMicroWith, hw] at h
      exact .inr (.inr (.inr (.inl ⟨hw, by simpa using h.symm⟩)))
    | d3 =>
      simp only [hostMicroWith, hw, exec, execEncodeHalf, onNext_next] at h
      exact .inr (.inr (.inr (.inr (.inl ⟨hw, by simpa using h.symm⟩))))
    | d4 =>
      simp only [hostMicroWith, hw, exec, execEncodeHalf, onNext_next] at h
      exact .inr (.inr (.inr (.inr (.inr (.inl ⟨hw, by simpa using h.symm⟩)))))
    | d5 =>
      simp only [hostMicroWith, hw] at h
      exact .inr (.inr (.inr (.inr (.inr (.inr ⟨hw, by simpa using h.symm⟩)))))

/-- A turn that the schedule takes is enabled. -/
theorem nextTurn_enabled {s : State} {tn : Turn} (h : nextTurn s = some tn) : turnEnabled s tn = true := by
  unfold nextTurn at h
  split at h
  · cases h; assumption
  · exact (List.mem_filter.1 (List.mem_of_head? h)).2

/-- No turn is taken only if none is enabled. -/
theorem nextTurn_none {s : State} (h : nextTurn s = none) (tn : Turn) : turnEnabled s tn = false := by
  unfold nextTurn at h
  split at h
  · cases h
  · have h1 := List.head?_eq_none_iff.1 h
    have h2 := List.filter_eq_nil_iff.1 h1 tn (by cases tn <;> simp)
    simpa using h2

/-- What one step can do: it runs only where no stop is recorded; it waits when no turn is enabled; otherwise it runs one
enabled turn and uses up one choice. -/
theorem step_next {s t : State} (h : step s = .next t) :
    s.Running ∧ ((nextTurn s = none ∧ t = s) ∨
      ∃ tn u, nextTurn s = some tn ∧ turnEnabled s tn = true ∧ runTurn tn s = .next u ∧ t = dropChoice u) := by
  have hrun : stopped s = none → s.Running := by
    intro hs
    unfold stopped at hs
    split at hs
    · cases hs
    · split at hs
      · cases hs
      · exact ⟨‹_›, by simp_all⟩
  unfold step at h
  split at h
  · rename_i o hs
    subst h
    unfold stopped at hs
    split at hs
    · cases hs
    · split at hs <;> cases hs
  · rename_i hs
    refine ⟨hrun hs, ?_⟩
    split at h
    · exact .inl ⟨‹_›, by simpa using h.symm⟩
    · rename_i tn htn
      obtain ⟨u, hu, rfl⟩ := onNext_eq_next h
      exact .inr ⟨tn, u, htn, nextTurn_enabled htn, hu, rfl⟩

/-- In a running state a step is the turn the schedule takes. -/
theorem step_of_turn {s : State} (hr : s.Running) {tn : Turn} (h : nextTurn s = some tn) :
    step s = onNext dropChoice (runTurn tn s) := by
  have hs : stopped s = none := by simp [stopped, hr.1, hr.2]
  simp only [step, hs, h]

/-- The invariant does not speak of the schedule. -/
theorem State.inv_sched {s : State} (h : s.Inv) (sched : List Choice) : ({ s with sched := sched } : State).Inv :=
  { h with display_progress := fun d hd => by have := h.display_progress d hd; cases d <;> exact this }

/-- An execution may be given another schedule before each step, the one it has among them. -/
theorem Execution.of_step {σ : Nat → State} (h : ∀ i, step (σ i) = .next (σ (i + 1))) : Execution σ :=
  fun i => ⟨σ (i + 1), (σ (i + 1)).sched, h i, rfl⟩

end Sys2Proof.Machine
end

