-- ==== Sys2Proof/Tests/Slice0.lean ====
section
/-! SUPPORT. Tests of one step each. Expected results are the vectors V1 to V61 of spec/95_test_vectors.md, the examples of the
rules, or words written out from R58 to R62; each says which. The witnesses of the statements' hypotheses are in
Tests/Witnesses.lean. -/

namespace Sys2Proof.Tests

open Sys2Proof.Machine

/-! ### Helpers -/

/-- Parameters with `N = n`, `B = b`, the symbols `H = 7` and `L = 3`, gamma off, `DmaChValid` of 1 alone. -/
def params (n b : Nat) : Params where
  n := n
  b := b
  highBit := 7
  lowBit := 3
  gammaEn := false
  gamma := Vector.ofFn fun v => BitVec.ofNat 8 v.val
  clkThreshold := 1000
  bitRate := 0
  dmaChValid := [1]
  curW := 16

/-- An idle block with nothing open in it: the registers R32 leaves unspecified are given values here, and the schedule
names the HOST for the next steps. -/
def idleState (p : Params) : State :=
  { State.resetWith p with
    cursor := 0, rd := 0, ccr := 0, cfg := ⟨0, 0, 0, 0⟩, status := .ok,
    sched := [⟨.host, 0⟩, ⟨.host, 0⟩] }

/-- A block that streams, with both halves of black pixels in the buffer. -/
def streamState (p : Params) (cursor rd : Nat) : State :=
  { idleState p with
    initState := .ready, st := .streaming, xferEn := true, cursor := cursor, rd := rd,
    buf := Memory.putAll [] 0 (List.replicate p.buflen 3), sched := [⟨.stream, 0⟩] }

/-- The outcome is a next state that passes the check. -/
def after (o : Host.Outcome State Fault Refusal) (check : State → Bool) : Bool :=
  match o with
  | .next t => check t
  | .fault _ => false
  | .refused _ => false

def faults (o : Host.Outcome State Fault Refusal) (f : Fault) : Bool :=
  match o with
  | .next _ => false
  | .fault r => r == f
  | .refused _ => false

def refuses (o : Host.Outcome State Fault Refusal) (f : Refusal) : Bool :=
  match o with
  | .next _ => false
  | .fault _ => false
  | .refused r => r == f

/-- `H` and `L` of the spec's vectors. -/
def H : Byte := 7
def L : Byte := 3

/-! ### Well-formedness: the one check, refused just past its bound -/

theorem test_wf_set_index_too_wide : (Instr.set (2 ^ 32) 0 0 0).wellFormed = false := by decide
theorem test_wf_clear_index_too_wide : (Instr.clear (2 ^ 32)).wellFormed = false := by decide
theorem test_wf_largest_index : (Instr.set (2 ^ 32 - 1) 0 0 0).wellFormed = true := by decide

/-! ### Decoding: words written out from R59 and R60 -/

/-- V35: op 01, dma_ch 01, timer 02, out_ch 01, clk 0x044AA200 = 72000000. -/
theorem test_decode_init : decodeCommand 0x01010201044AA200#64 = .ok (.init 1 2 1 72000000) := by decide
/-- V49 -/
theorem test_decode_set : decodeCommand 0x0200000000FF00AA#64 = .ok (.set 0 0xFF 0x00 0xAA) := by decide
/-- V27: the largest index. -/
theorem test_decode_set_max : decodeCommand 0x02FFFFFFFF010203#64 = .ok (.set 4294967295 1 2 3) := by decide
/-- V51 -/
theorem test_decode_clear : decodeCommand 0x0300000003000000#64 = .ok (.clear 3) := by decide
/-- V30 -/
theorem test_decode_clear_all : decodeCommand 0x0400000000000000#64 = .ok .clearAll := by decide
/-- V54 -/
theorem test_decode_display : decodeCommand 0x0500000000000000#64 = .ok .display := by decide
/-- V52, V53, V55 -/
theorem test_decode_reserved_fields :
    decodeCommand 0x0300000003000001#64 = .error .reservedField ∧
    decodeCommand 0x0400000000000001#64 = .error .reservedField ∧
    decodeCommand 0x0500000100000000#64 = .error .reservedField := by decide
/-- V56, V57 -/
theorem test_decode_reserved_opcodes :
    decodeCommand 0x0000000000000000#64 = .error .reservedOpcode ∧
    decodeCommand 0x0600000000000000#64 = .error .reservedOpcode ∧
    decodeCommand 0xFF00000000000000#64 = .error .reservedOpcode := by decide
/-- V58 to V61 -/
theorem test_decode_event :
    decode (.event 0b01#2) = .ok [.irqHt] ∧ decode (.event 0b10#2) = .ok [.irqTc] ∧
    decode (.event 0b00#2) = .ok [] ∧ decode (.event 0b11#2) = .ok [.irqHt, .irqTc] := by decide
/-- R62 -/
theorem test_decode_tick_and_call :
    decode (.tick 1#1) = .ok [.stream] ∧ decode (.tick 0#1) = .ok [] ∧
    decode (.call 0#1) = .ok [.encodeHalf .h0] ∧ decode (.call 1#1) = .ok [.encodeHalf .h1] := by decide
/-- The first row of each format, as the host asks for it (log 15). -/
theorem test_table_words :
    decodeTableWord 64 0x0400000000000000 = some .clearAll ∧ decodeTableWord 8 2 = some .irqTc ∧
    decodeTableWord 1 1 = some .stream ∧ decodeTableWord 8 0 = some (.encodeHalf .h0) := by decide

/-! ### The Bit Encoder -/

/-- V5 to V8 -/
theorem test_enc_byte :
    encByte (params 2 1) 0x80 = [H, L, L, L, L, L, L, L] ∧ encByte (params 2 1) 0x01 = [L, L, L, L, L, L, L, H] ∧
    encByte (params 2 1) 0x50 = [L, H, L, H, L, L, L, L] ∧ encByte (params 2 1) 0xA5 = [H, L, H, L, L, H, L, H] := by decide
/-- X4: green 0x20 first, red 0x10 second, blue 0x30 third. -/
theorem test_enc_pixel_order :
    encPixel (params 2 1) 0x10 0x20 0x30 =
      [L, L, H, L, L, L, L, L] ++ [L, L, L, H, L, L, L, L] ++ [L, L, H, H, L, L, L, L] := by decide
/-- V22: `N = 3`, `B = 2`, `cursor = 2`: half 1 gets pixel 2 and one trailing slot. -/
theorem test_encode_half_straddles :
    after (exec (.encodeHalf .h1)
        { idleState (params 3 2) with cursor := 2, pix := [(6, 0xFF), (7, 0xFF), (8, 0xFF)] })
      (fun t => t.cursor == 4 && t.encCalls == 1 && bufRead t 48 == H && bufRead t 71 == H && bufRead t 72 == L &&
        bufRead t 95 == L && Memory.get t.buf 47 == none) = true := by decide
/-- V23: a whole half of trailing slots, and the cursor past `T = 5`. -/
theorem test_encode_half_trailing :
    after (exec (.encodeHalf .h0) { idleState (params 3 2) with cursor := 4 })
      (fun t => t.cursor == 6 && t.buf == Memory.putAll [] 0 (List.replicate 48 L)) = true := by decide

/-! ### The Pixel Store -/

/-- V25, the green byte written first: one byte of pixel 3, two writes left. -/
theorem test_set_first_write :
    after (exec (.set 3 0x10 0x20 0x30) { idleState (params 4 1) with sched := [⟨.host, 1⟩] })
      (fun t => t.pix == [(10, 0x20)] && t.work == .writes [⟨3, .r, 0x10⟩, ⟨3, .b, 0x30⟩]) = true := by decide
/-- V26 -/
theorem test_set_out_of_range :
    faults (exec (.set 4 0 0 0) (idleState (params 4 1))) (.indexOutOfRange 4) = true := by decide
/-- V31, V32: a table with `GAMMA(0) = 5`; `SET` maps, `CLEAR` does not. -/
theorem test_clear_bypasses_gamma :
    after (exec (.set 0 0 0 0)
        (idleState { params 1 1 with gammaEn := true, gamma := Vector.replicate 256 5 })) (fun t => t.pix == [(0, 5)]) = true ∧
    after (exec (.clear 0)
        (idleState { params 1 1 with gammaEn := true, gamma := Vector.replicate 256 5 })) (fun t => t.pix == [(0, 0)]) = true := by
  decide
/-- V29 -/
theorem test_clear_out_of_range :
    faults (exec (.clear 4) (idleState (params 4 1))) (.indexOutOfRange 4) = true := by decide
/-- V30: `3 * N` byte writes of 0; here the one of pixel 1's green byte comes first. -/
theorem test_clear_all_any_order :
    after (exec .clearAll { idleState (params 2 1) with
        pix := [(0, 1), (1, 2), (2, 3), (3, 4), (4, 5), (5, 6)], sched := [⟨.host, 4⟩] })
      (fun t => t.pix == [(0, 1), (1, 2), (2, 3), (3, 4), (4, 0), (5, 6)] &&
        (match t.work with | .writes ws => ws.length == 5 | .idle => false | .display _ => false)) = true := by decide
/-- R69: the last byte write of a command ends it. -/
theorem test_last_write_ends_command :
    after (step { idleState (params 2 1) with work := .writes [⟨1, .b, 9⟩] })
      (fun t => t.pix == [(5, 9)] && t.work == .idle) = true := by decide

/-! ### INIT -/

/-- V35, V36: `out_ch` 1 and 4. -/
theorem test_init_ok :
    after (exec (.init 1 2 1 72000000) (idleState (params 2 1)))
      (fun t => t.status == .ok && t.initState == .ready && t.cfg == ⟨1, 2, 1, 72000000⟩ && t.st == .idle) = true ∧
    after (exec (.init 1 2 4 1001) (idleState (params 2 1))) (fun t => t.initState == .ready) = true := by decide
/-- V37 to V39b: `out_ch` 5 and 0, an invalid channel, `clk` not above the threshold. -/
theorem test_init_bad_operands :
    after (exec (.init 1 2 5 72000000) (idleState (params 2 1)))
      (fun t => t.status == .configError && t.initState == .failed) = true ∧
    after (exec (.init 1 2 0 72000000) (idleState (params 2 1))) (fun t => t.initState == .failed) = true ∧
    after (exec (.init 9 2 1 72000000) (idleState (params 2 1))) (fun t => t.initState == .failed) = true ∧
    after (exec (.init 1 2 1 1000) (idleState (params 2 1))) (fun t => t.initState == .failed) = true := by decide

/-! ### DISPLAY -/

/-- R87 D1 -/
theorem test_display_d1 :
    after (exec .display { idleState (params 2 1) with initState := .ready })
      (fun t => t.st == .armed && !t.xferEn && t.work == .display .d2) = true := by decide
/-- R87's example at D3: slot 0 of pixel (r 0xFF, g 0x00, b 0xAA) fills half 0. -/
theorem test_display_d3 :
    after (step { idleState (params 2 1) with
        initState := .ready, st := .armed, work := .display .d3, pix := [(0, 0xFF), (1, 0x00), (2, 0xAA)] })
      (fun t => t.cursor == 1 && t.work == .display .d4 &&
        t.buf == Memory.putAll [] 0 (List.replicate 8 L ++ List.replicate 8 H ++ [H, L, H, L, H, L, H, L])) = true := by decide

/-! ### IRQ_HT and IRQ_TC -/

/-- V47: the refill branch. -/
theorem test_irq_ht_refills :
    after (exec .irqHt { streamState (params 2 1) 2 24 with pendHalf := true })
      (fun t => t.cursor == 3 && !t.pendHalf && t.encCalls == 1 && t.xferEn && t.st == .streaming && t.rd == 24) = true := by
  decide
/-- R134: `IRQ_HT` between two byte writes of one `SET` (V34, green written first): the slot shows green alone. -/
theorem test_irq_ht_torn_frame :
    after (exec .irqHt { streamState (params 3 1) 2 24 with
        pendHalf := true, pix := [(6, 0), (7, 0xFF), (8, 0)], work := .writes [⟨2, .r, 0xFF⟩, ⟨2, .b, 0xFF⟩] })
      (fun t => bufRead t 7 == H && bufRead t 8 == L && bufRead t 23 == L) = true := by decide
/-- V46: the termination branch. -/
theorem test_irq_tc_terminates :
    after (exec .irqTc { streamState (params 2 1) 3 0 with pendFull := true })
      (fun t => t.st == .done && !t.xferEn && !t.pendFull && t.disableCnt == 1 && t.cursor == 3 && t.encCalls == 0) = true := by
  decide
/-- R91: the refill branch writes half 1. -/
theorem test_irq_tc_refills :
    after (exec .irqTc { streamState (params 9 1) 2 0 with pendFull := true, pix := [(6, 0), (7, 0x80), (8, 1)] })
      (fun t => bufRead t 23 == L && bufRead t 24 == H && bufRead t 25 == L && bufRead t 47 == H && !t.pendFull) = true := by
  decide

/-! ### STREAM -/

/-- V40: the step that delivers `buf[23]` raises `pend_half`; the one that delivers `buf[47]` wraps and raises `pend_full`. -/
theorem test_stream_raises :
    after (exec .stream (streamState (params 2 1) 2 23))
      (fun t => t.ccr == L && t.rd == 24 && t.pendHalf && !t.pendFull && t.out == [L] && !t.overrun) = true ∧
    after (exec .stream (streamState (params 2 1) 2 47))
      (fun t => t.rd == 0 && t.pendFull && !t.pendHalf) = true := by decide
/-- V42: the 48th symbol with `pend_half` still set is the overrun. -/
theorem test_stream_overrun :
    after (exec .stream { streamState (params 2 1) 2 47 with pendHalf := true })
      (fun t => t.pendHalf && t.pendFull && t.overrun) = true := by decide

/-! ### Steps -/

/-- R129: the HOST is held while a flag is pending, although the schedule names it. -/
theorem test_host_held :
    after (step { streamState (params 2 1) 2 24 with
        pendHalf := true, cmds := [0x0400000000000000#64], sched := [⟨.host, 0⟩] })
      (fun t => t.cmds.length == 1) = true := by decide
/-- A placed command is the one that the next step runs. -/
theorem test_step_runs_placed_word :
    after (step (State.withFetchWord (idleState (params 2 1)) 64 0x0300000001000000))
      (fun t => t.pix == [(3, 0)] && t.cmds == []) = true ∧
    refuses (step (State.withFetchWord (idleState (params 2 1)) 64 0x0600000000000000)) .reservedOpcode = true := by decide

end Sys2Proof.Tests
end

