-- ==== Sys2Proof/Tests/Witnesses.lean ====
section
/-! SUPPORT. For every statement of Certificates/Slice0/Obligations.lean that has hypotheses, a concrete state and operands that
meet all of them, at the ends of their ranges where a clause has one. -/

namespace Sys2Proof.Tests

open Sys2Proof.Machine

/-! ### The states -/

/-- The test parameters meet R5's constraints. -/
theorem params_ok (n b : Nat) (hn : 1 ≤ n) (hb : 1 ≤ b) (hw : n + 2 * b < 2 ^ 16) : (params n b).Ok where
  n_pos := hn
  b_pos := hb
  low_lt_high := by show (3#8 : BitVec 8) < 7#8; decide
  gamma_mono := by
    intro i j hij
    simp only [params, Fin.getElem_fin, Vector.getElem_ofFn, BitVec.le_def, BitVec.toNat_ofNat]
    rw [Nat.mod_eq_of_lt (by omega), Nat.mod_eq_of_lt (by omega)]
    exact hij
  cur_width := hw

/-- What the invariant says beside the parameters' constraints, in a form that a small state decides. -/
theorem inv_of {s : State} (hp : s.params.Ok)
    (hm : Memory.wf s.pix ∧ Memory.wf s.buf ∧ (∀ c ∈ s.pix, c.1 < 3 * s.params.n) ∧ (∀ c ∈ s.buf, c.1 < s.params.buflen) ∧
      ∀ c ∈ s.buf, c.2 = s.params.highBit ∨ c.2 = s.params.lowBit)
    (hr : s.rd < s.params.buflen ∧ (s.xferEn = true ↔ s.st = .streaming) ∧
      (s.xferEn = false → s.pendHalf = false ∧ s.pendFull = false) ∧
      (s.initState ≠ .ready → s.st = .idle ∧ s.xferEn = false) ∧ s.outMark ≤ s.out.length)
    (hc : (s.st = .streaming ∨ s.st = .done →
        s.params.b ∣ s.cursor ∧ 2 * s.params.b ≤ s.cursor ∧ s.cursor ≤ (s.params.signals + 1) * s.params.b) ∧
      (s.st = .done → s.params.threshold ≤ s.cursor))
    (ho : (s.pendHalf = true → s.pendFull = true → s.overrun = true) ∧
      (s.overrun = false → s.pendHalf = true → s.params.half ≤ s.rd) ∧
      (s.overrun = false → s.pendFull = true → s.rd < s.params.half))
    (hf : s.st = .streaming ∨ s.st = .done → ∀ j, j < s.params.buflen → (Memory.get s.buf j).isSome = true)
    (hd : s.st = .armed ↔ ∃ d, s.work = .display d) (hg : ∀ d, s.work = .display d → displayProgress s d)
    (hw : ∀ ws, s.work = .writes ws → ws ≠ [] ∧ ∀ w ∈ ws, w.index < s.params.n) : s.Inv where
  params_ok := hp
  pix_wf := hm.1
  buf_wf := hm.2.1
  pix_bound := hm.2.2.1
  buf_bound := hm.2.2.2.1
  rd_range := hr.1
  enabled_iff_streaming := hr.2.1
  quiet_when_disabled := hr.2.2.1
  cursor_bound := hc.1
  done_cursor := hc.2
  not_ready_idle := hr.2.2.2.1
  buf_symbols := hm.2.2.2.2
  armed_iff_display := hd
  display_progress := hg
  writes_in_range := hw
  filled := fun h j _ hj => hf h j hj
  both_pending := ho.1
  half_flag_place := ho.2.1
  full_flag_place := ho.2.2
  mark_in_out := hr.2.2.2.2

theorem ok21 : (params 2 1).Ok := params_ok 2 1 (by decide) (by decide) (by decide)

/-- A READY block before `DISPLAY`, the Pixel Store of program P1 in it. -/
def readyState : State :=
  { idleState (params 2 1) with
    initState := .ready, pix := [(0, 0xFF), (1, 0x00), (2, 0xAA), (3, 0x01), (4, 0x80), (5, 0x00)] }

/-- The state after that `DISPLAY` (R87's example). -/
def displayedState : State := displayAtomic readyState

/-- The same request ended (program P1): 48 symbols delivered, the trailing slot in half 0 never read. -/
def doneState : State :=
  { displayedState with
    out := frameSlots displayedState 2, cursor := 3, encCalls := 3, disableCnt := 1, st := .done, xferEn := false,
    buf := Memory.putAll displayedState.buf 0 (List.replicate 24 L) }

/-- The HOST about to do `DISPLAY`'s D3, and about to do its D5. -/
def beforeD3 : State := { readyState with st := .armed, work := .display .d3 }
def beforeD5 : State := { encodeHalf .h1 (encodeHalf .h0 readyState) with st := .armed, work := .display .d5 }

/-- R90's example: half 0 delivered, `cursor = 2 < T`. -/
def halfState : State :=
  { displayedState with rd := 24, pendHalf := true, out := frameSlots displayedState 1, sched := [⟨.irqHt, 0⟩] }

/-- R91's example: half 1 delivered, `cursor = 3 = T`. -/
def fullState : State :=
  { displayedState with
    rd := 0, pendFull := true, cursor := 3, encCalls := 3, out := frameSlots displayedState 2, sched := [⟨.irqTc, 0⟩] }

/-- Streaming with no flag pending, a `DISPLAY` next: a re-arm (R95). -/
def rearmState : State := { displayedState with cmds := [0x0500000000000000#64], sched := [⟨.host, 0⟩] }

/-- A `SET` with one write done. -/
def writingState : State := { readyState with work := .writes [⟨1, .g, 9⟩, ⟨1, .b, 8⟩] }

theorem readyState_inv : readyState.Inv :=
  inv_of ok21 (by decide) (by decide) (by decide) (by decide) (by decide)
    ⟨(fun h => by cases h), (fun ⟨_, h⟩ => by cases h)⟩ (fun _ h => by cases h) (fun _ h => by cases h)

theorem displayedState_inv : displayedState.Inv :=
  inv_of ok21 (by decide) (by decide) (by decide) (by decide) (by decide)
    ⟨(fun h => by cases h), (fun ⟨_, h⟩ => by cases h)⟩ (fun _ h => by cases h) (fun _ h => by cases h)

theorem doneState_inv : doneState.Inv :=
  inv_of ok21 (by decide) (by decide) (by decide) (by decide) (by decide)
    ⟨(fun h => by cases h), (fun ⟨_, h⟩ => by cases h)⟩ (fun _ h => by cases h) (fun _ h => by cases h)

theorem beforeD3_inv : beforeD3.Inv :=
  inv_of ok21 (by decide) (by decide) (by decide) (by decide) (by decide)
    ⟨(fun _ => ⟨.d3, rfl⟩), (fun _ => rfl)⟩ (fun d h => by cases h; exact rfl) (fun _ h => by cases h)

theorem beforeD5_inv : beforeD5.Inv :=
  have hfill : ∀ j, j < beforeD5.params.buflen → (Memory.get beforeD5.buf j).isSome = true := by decide
  inv_of ok21 (by decide) (by decide) (by decide) (by decide) (fun _ => hfill)
    ⟨(fun _ => ⟨.d5, rfl⟩), (fun _ => rfl)⟩ (fun d h => by cases h; exact ⟨rfl, fun j _ hj => hfill j hj⟩)
    (fun _ h => by cases h)

theorem halfState_inv : halfState.Inv :=
  inv_of ok21 (by decide) (by decide) (by decide) (by decide) (by decide)
    ⟨(fun h => by cases h), (fun ⟨_, h⟩ => by cases h)⟩ (fun _ h => by cases h) (fun _ h => by cases h)

theorem fullState_inv : fullState.Inv :=
  inv_of ok21 (by decide) (by decide) (by decide) (by decide) (by decide)
    ⟨(fun h => by cases h), (fun ⟨_, h⟩ => by cases h)⟩ (fun _ h => by cases h) (fun _ h => by cases h)

theorem rearmState_inv : rearmState.Inv :=
  inv_of ok21 (by decide) (by decide) (by decide) (by decide) (by decide)
    ⟨(fun h => by cases h), (fun ⟨_, h⟩ => by cases h)⟩ (fun _ h => by cases h) (fun _ h => by cases h)

theorem writingState_inv : writingState.Inv :=
  inv_of ok21 (by decide) (by decide) (by decide) (by decide) (by decide)
    ⟨(fun h => by cases h), (fun ⟨_, h⟩ => by cases h)⟩ (fun _ h => by cases h)
    (fun ws h => by cases h; exact ⟨by decide, by decide⟩)

theorem displayedState_frame : FrameInv displayedState where
  inv := displayedState_inv
  silent := ⟨by decide, by decide⟩
  on_time := by decide
  live := .inl (by decide)
  content := by decide
  enc_calls := by decide
  place := by decide
  no_disable := by decide
  resident := by
    intro _
    decide
  pace := by decide
  half_flag := by decide
  full_flag := by decide
  ended := by decide

theorem doneState_frame : FrameInv doneState where
  inv := doneState_inv
  silent := ⟨by decide, by decide⟩
  on_time := by decide
  live := .inr (by decide)
  content := by decide
  enc_calls := by decide
  place := fun h => by cases h
  no_disable := fun h => by cases h
  resident := fun h => by cases h
  pace := fun h => by cases h
  half_flag := fun h => by cases h
  full_flag := fun h => by cases h
  ended := fun _ => ⟨by decide, by decide, by decide⟩

/-! ### The witnesses, in the order of the statements -/

/-- EncodeDecodeRoundTrip: the largest index that is well-formed. -/
theorem witness_round_trip : (Instr.set (2 ^ 32 - 1) 0xFF 0 0x80).wellFormed = true := by decide

/-- DecodedCommandHasOneWord -/
theorem witness_decoded_command : decodeCommand 0x02FFFFFFFF010203#64 = .ok (.set (2 ^ 32 - 1) 1 2 3) := by decide

/-- ReservedOpcodeRefused: the opcodes just outside 0x01 to 0x05, and an idle HOST with such a word next. -/
theorem witness_reserved_opcode :
    (¬ (1 ≤ (opField 0x0000000000000000#64).toNat ∧ (opField 0x0000000000000000#64).toNat ≤ 5)) ∧
    (¬ (1 ≤ (opField 0x0600000000000000#64).toNat ∧ (opField 0x0600000000000000#64).toNat ≤ 5)) ∧
    ({ readyState with cmds := [0x0600000000000000#64] } : State).cmds = 0x0600000000000000#64 :: [] ∧
    readyState.work = .idle := by decide

/-- ReservedFieldRefused: the highest and the lowest reserved bit, and a word with none. -/
theorem witness_reserved_field :
    decodeCommand 0x0580000000000000#64 = .error .reservedField ∧
    decodeCommand 0x0300000000800000#64 = .error .reservedField ∧
    decodeCommand 0x0300000001000000#64 = .ok (.clear 1) ∧
    opField 0x01FFFFFFFFFFFFFF#64 = 1#8 ∧ opField 0x0200000000000000#64 = 2#8 := by decide

/-- GammaFunction: both values of `GAMMA_EN`, and constraints met. -/
theorem witness_gamma :
    ({ params 2 1 with gammaEn := true } : Params).gammaEn = true ∧ (params 2 1).gammaEn = false ∧ (params 2 1).Ok :=
  ⟨rfl, rfl, params_ok 2 1 (by decide) (by decide) (by decide)⟩

/-- TrailingSlotIsBlackPixel: the first trailing cursor value. -/
theorem witness_trailing_slot : readyState.params.n ≤ 2 := by decide

/-- SlotDecodesToItsBytes -/
theorem witness_distinct_symbols : (params 2 1).highBit ≠ (params 2 1).lowBit := by decide

/-- EncoderReadsOnlyRealPixels: two states that differ in a `PIX` byte past the strip only. -/
theorem witness_real_pixels :
    ∀ i, i < readyState.params.n → ∀ c,
      pixRead { readyState with pix := Memory.put readyState.pix 6 1 } i c = pixRead readyState i c := by
  intro i hi c
  have hne : pixAddr i c ≠ 6 := Nat.ne_of_lt (pixAddr_lt c hi)
  simp only [pixRead, pixReadAt]
  rw [Memory.get_put_ne _ _ hne]

/-- PixelCommandsStartWithOneWrite, SetStoresThePixel, ClearZeroesThePixel, ClearAllZeroesEveryPixel,
WriteOrderLeavesNoTrace: an idle HOST, the first and the last pixel of the strip, a canonical Pixel Store; the three
commands complete under two schedules. -/
theorem witness_pixel_commands :
    readyState.work = .idle ∧ 0 < readyState.params.n ∧ 1 < readyState.params.n ∧ 1 ≤ readyState.params.n ∧
    Memory.wf readyState.pix ∧
    after (exec (.set 1 1 2 3) { readyState with sched := [⟨.host, 0⟩], fresh := 0 }) (fun _ => true) = true ∧
    after (exec (.set 1 1 2 3) { readyState with sched := [⟨.host, 2⟩], fresh := 1 }) (fun _ => true) = true ∧
    after (exec .clearAll { readyState with sched := [⟨.host, 5⟩], fresh := 1 }) (fun _ => true) = true := by decide

/-- IndexOutOfRangeFaults: the least index out of range. -/
theorem witness_out_of_range : readyState.work = .idle ∧ readyState.params.n ≤ 2 := by decide

/-- InitLoadsConfiguration: `clk` just above the threshold, `out_ch` at both ends. -/
theorem witness_init_ok :
    (idleState (params 2 1)).work = .idle ∧ (idleState (params 2 1)).initState = .uninit ∧
    (1 : BitVec 8) ∈ (params 2 1).dmaChValid ∧ (params 2 1).clkThreshold < (1001 : BitVec 32).toNat ∧
    1 ≤ (1 : BitVec 8).toNat ∧ (4 : BitVec 8).toNat ≤ 4 := by decide

/-- InitReportsBadOperand: each operand bad alone, just past its bound. -/
theorem witness_init_bad :
    (∀ outCh ∈ [(0 : BitVec 8), 5], ¬ (1 ≤ outCh.toNat ∧ outCh.toNat ≤ 4)) ∧
    ¬ (params 2 1).clkThreshold < (1000 : BitVec 32).toNat ∧ (9 : BitVec 8) ∉ (params 2 1).dmaChValid := by decide

/-- SecondInitRefused, DisplayWithoutInitRefused, DisplayFirstDisables: READY and not READY, the HOST idle. -/
theorem witness_init_states :
    readyState.work = .idle ∧ readyState.initState = .ready ∧
    ({ readyState with initState := .failed } : State).initState = .failed ∧
    (idleState (params 2 1)).work = .idle ∧ (idleState (params 2 1)).initState ≠ .ready := by decide

/-- DisplayIsOneAtomicStep -/
theorem witness_display :
    readyState.Inv ∧ readyState.Running ∧ readyState.work = .idle ∧ readyState.initState = .ready ∧
    anyPending readyState = false ∧ (∃ t, exec .display readyState = .next t) ∧
    readyState.cmds = [] ∧ readyState.overrun = false :=
  ⟨readyState_inv, ⟨rfl, rfl⟩, rfl, rfl, by decide, ⟨_, rfl⟩, rfl, rfl⟩

/-- HandlerTerminates at `cursor = T`, IrqRefillsTheFreedHalf at `cursor = T - 1`, both signals. -/
theorem witness_handler :
    (streamState (params 2 1) 3 24).params.threshold ≤ (streamState (params 2 1) 3 24).cursor ∧
    (streamState (params 2 1) 2 24).cursor < (streamState (params 2 1) 2 24).params.threshold ∧
    ({ streamState (params 2 1) 2 24 with pendHalf := true } : State).pendHalf = true ∧
    ({ streamState (params 2 1) 2 0 with pendFull := true } : State).pendFull = true := by decide

/-- HandlerRefillsOrDisables -/
theorem witness_handler_next :
    ∃ t, exec .irqHt { streamState (params 2 1) 2 24 with pendHalf := true } = .next t := ⟨_, rfl⟩

/-- EitherPendingSignalMayBeFirst -/
theorem witness_both_pending :
    ({ streamState (params 9 1) 2 0 with pendHalf := true, pendFull := true } : State).Running ∧
    (streamState (params 9 1) 2 0).cursor + 1 < (params 9 1).threshold := by
  exact ⟨⟨rfl, rfl⟩, by decide⟩

/-- StreamDeliversOneSymbol, SignalsAtHalfBoundaries: the last index of the buffer. -/
theorem witness_stream :
    (streamState (params 2 1) 2 47).xferEn = true ∧
    (streamState (params 2 1) 2 47).rd < (streamState (params 2 1) 2 47).params.buflen ∧
    (streamState (params 2 1) 2 47).params.Ok ∧
    ∃ t, exec .stream (streamState (params 2 1) 2 47) = .next t :=
  ⟨rfl, by decide, params_ok 2 1 (by decide) (by decide) (by decide), ⟨_, rfl⟩⟩

/-- StepsNotEnabledAreRefused: each enabling bit 0, and a turn that is taken. -/
theorem witness_not_enabled :
    readyState.pendHalf = false ∧ readyState.pendFull = false ∧ readyState.xferEn = false ∧
    nextTurn (streamState (params 2 1) 2 0) = some .stream := by decide

/-- DeadlineIsHalfSymbols: both flags' raises, at the deadline's last value. -/
theorem witness_deadline :
    (params 2 1).Ok ∧
    ({ streamState (params 2 1) 2 24 with pendHalf := true, sched := List.replicate 24 ⟨.stream, 0⟩ ++ [] } : State).rd =
      (params 2 1).half ∧
    (streamState (params 2 1) 2 0).rd = 0 ∧ 24 ≤ (params 2 1).half ∧ (streamState (params 2 1) 2 24).Running ∧
    (streamState (params 2 1) 2 24).xferEn = true ∧ (streamState (params 2 1) 2 24).overrun = false :=
  ⟨params_ok 2 1 (by decide) (by decide) (by decide), by decide, by decide, by decide, ⟨rfl, rfl⟩, rfl, rfl⟩

/-- StepRunsTheOperation: each of its clauses. -/
theorem witness_step_clauses :
    nextTurn { readyState with cmds := [0x0500000000000000#64] } = some .host ∧
    nextTurn writingState = some .host ∧
    nextTurn { readyState with work := .display .d2 } = some .host ∧
    nextTurn { readyState with work := .display .d3 } = some .host ∧
    nextTurn { readyState with work := .display .d4 } = some .host ∧
    nextTurn { readyState with work := .display .d5 } = some .host ∧
    nextTurn { streamState (params 2 1) 2 24 with pendHalf := true, sched := [⟨.irqHt, 0⟩] } = some .irqHt ∧
    nextTurn { streamState (params 2 1) 2 0 with pendFull := true, sched := [⟨.irqTc, 0⟩] } = some .irqTc ∧
    nextTurn (streamState (params 2 1) 2 0) = some .stream ∧ readyState.Running := by
  refine ⟨by decide, by decide, by decide, by decide, by decide, by decide, by decide, by decide, by decide, ⟨rfl, rfl⟩⟩

/-- EveryEnabledTurnCanBeTaken: each turn enabled somewhere. -/
theorem witness_enabled_turns :
    turnEnabled { readyState with cmds := [0x0500000000000000#64] } .host = true ∧
    turnEnabled { streamState (params 2 1) 2 0 with pendHalf := true, pendFull := true } .irqHt = true ∧
    turnEnabled { streamState (params 2 1) 2 0 with pendHalf := true, pendFull := true } .irqTc = true ∧
    turnEnabled (streamState (params 2 1) 2 0) .stream = true := by decide

/-- A step that answers a next state from a state that meets the invariant, streaming and on time:
OnlyEnabledTurnsAreTaken, StepKeepsInvariant, FlightHalfIsNotWritten, ContextsKeepTheirAccess, ParametersNeverChange,
StepKeepsTheFrame. -/
theorem witness_step_streaming :
    displayedState.Inv ∧ displayedState.st = .streaming ∧ displayedState.overrun = false ∧ FrameInv displayedState ∧
    ∃ t, step { displayedState with sched := [⟨.stream, 0⟩] } = .next t ∧ t.overrun = false :=
  ⟨displayedState_inv, rfl, rfl, displayedState_frame, ⟨_, rfl, by decide⟩⟩

/-- HostHeldWhileFlagPending, FlagsClearedOnlyByHandler, TransferEnableChanges, SchedulerTransitions,
ContextsKeepTheirAccess, StepKeepsInvariant: from states that meet the invariant, an IRQ step that refills and clears its flag,
and one that terminates. -/
theorem witness_irq_steps :
    halfState.Inv ∧ nextTurn halfState = some .irqHt ∧
    after (step halfState) (fun t => !t.pendHalf && t.xferEn && t.cursor == 3) = true ∧
    fullState.Inv ∧ nextTurn fullState = some .irqTc ∧
    after (step fullState) (fun t => !t.pendFull && !t.xferEn && t.st == .done) = true :=
  ⟨halfState_inv, by decide, by decide, fullState_inv, by decide, by decide⟩

/-- TransferEnableChanges and SchedulerTransitions (enable): the step of D5 from a state that meets the invariant. -/
theorem witness_transfer_enabled :
    beforeD5.Inv ∧ beforeD5.xferEn = false ∧
    after (step beforeD5) (fun t => t.xferEn && t.st == .streaming && t.rd == 0) = true :=
  ⟨beforeD5_inv, rfl, by decide⟩

/-- TransferEnableChanges and SchedulerTransitions (re-arm): D1 while streaming, from a state that meets the invariant. -/
theorem witness_rearm :
    rearmState.Inv ∧ rearmState.st = .streaming ∧ rearmState.xferEn = true ∧
    after (step rearmState) (fun t => !t.xferEn && t.st == .armed && t.work == .display .d2) = true :=
  ⟨rearmState_inv, rfl, rfl, by decide⟩

/-- OnlyInitConfigures and OnlyPixelCommandsWritePixels: steps that do write. -/
theorem witness_configuring_and_writing :
    after (step { idleState (params 2 1) with cmds := [0x01010201044AA200#64] }) (fun t => t.initState == .ready) = true ∧
    after (step { idleState (params 2 1) with cmds := [0x0300000001000000#64] }) (fun t => t.pix != []) = true ∧
    after (step { idleState (params 2 1) with work := .writes [⟨1, .b, 9⟩] }) (fun t => t.pix != []) = true := by decide

/-- ContextsKeepTheirAccess: a HOST step that writes the buffer, from a state that meets the invariant. -/
theorem witness_host_fills :
    beforeD3.Inv ∧ nextTurn beforeD3 = some .host ∧ after (step beforeD3) (fun t => t.buf != beforeD3.buf) = true :=
  ⟨beforeD3_inv, by decide, by decide⟩

/-- StopsAreRecorded: no fault, and one recorded. -/
theorem witness_stops :
    readyState.fault = none ∧
    ({ readyState with fault := some (.indexOutOfRange 7) } : State).fault = some (.indexOutOfRange 7) := by decide

/-- OnlyTheSpecsStops: a state that meets the invariant and faults, and one that is refused. -/
theorem witness_spec_stops :
    readyState.Inv ∧ readyState.Running ∧
    faults (step { readyState with cmds := [0x0200000002000000#64] }) (.indexOutOfRange 2) = true ∧
    refuses (step { readyState with cmds := [0x0101010100000000#64] }) .reInit = true :=
  ⟨readyState_inv, ⟨rfl, rfl⟩, by decide, by decide⟩

/-- ResetMeetsInvariant -/
theorem witness_reset_params : (params 1 1).Ok := params_ok 1 1 (by decide) (by decide) (by decide)

/-- NoStepExactlyAtRunEnd: a run that has ended, and one that has not. -/
theorem witness_run_end :
    doneState.Inv ∧ doneState.Running ∧ nextTurn doneState = none ∧ displayedState.Inv ∧ displayedState.Running ∧
    nextTurn displayedState = some .stream :=
  ⟨doneState_inv, ⟨rfl, rfl⟩, by decide, displayedState_inv, ⟨rfl, rfl⟩, by decide⟩

/-- DoneFrameIsDelivered -/
theorem witness_done_frame : FrameInv doneState ∧ doneState.st = .done := ⟨doneState_frame, rfl⟩

/-- PromptRunDeliversTheFrame: the state after `DISPLAY`, with the prompt schedule of its `K = 2` signals. -/
theorem witness_prompt_run :
    FrameInv { displayedState with sched := promptSchedule displayedState.params 1 displayedState.params.signals ++ [] } ∧
    displayedState.Running ∧ displayedState.st = .streaming ∧ displayedState.cursor = 2 * displayedState.params.b ∧
    displayedState.outMark = displayedState.out.length ∧ displayedState.params.signals = 2 := by
  exact ⟨{ displayedState_frame with inv := State.inv_sched displayedState_inv _ }, ⟨rfl, rfl⟩, rfl, by decide, by decide,
    by decide⟩

/-- RemainingWritesAreDoneInAnyOrder: two writes left, the HOST's turn next. -/
theorem witness_remaining_writes :
    writingState.Running ∧ anyPending writingState = false ∧ nextTurn writingState = some .host ∧
    writingState.work = .writes [⟨1, .g, 9⟩, ⟨1, .b, 8⟩] ∧ (⟨1, .b, 8⟩ : PixWrite) ∈ [⟨1, .g, 9⟩, ⟨1, .b, 8⟩] :=
  ⟨⟨rfl, rfl⟩, by decide, by decide, rfl, by decide⟩

/-! ### A fair execution -/

/-- The last symbol before the terminating signal of a strip of one pixel, with the schedule that services it promptly. -/
def lastSymbol : State :=
  { streamState (params 1 1) 2 23 with sched := [⟨.stream, 0⟩, ⟨.irqHt, 0⟩, ⟨.host, 0⟩] }

/-- The next state of a step that answers one. -/
def nextOf (s : State) : State :=
  match step s with
  | .next t => t
  | .fault _ => s
  | .refused _ => s

/-- That symbol, the IRQ step that terminates, and a block that waits for its HOST ever after. -/
def fairRun : Nat → State
  | 0 => lastSymbol
  | 1 => nextOf lastSymbol
  | _ + 2 => nextOf (nextOf lastSymbol)

theorem lastSymbol_inv : lastSymbol.Inv :=
  inv_of (params_ok 1 1 (by decide) (by decide) (by decide)) (by decide) (by decide) (by decide) (by decide) (by decide)
    ⟨(fun h => by cases h), (fun ⟨_, h⟩ => by cases h)⟩ (fun _ h => by cases h) (fun _ h => by cases h)

theorem fairRun_execution : Execution fairRun := by
  refine Execution.of_step fun i => ?_
  obtain _ | _ | i := i
  · rfl
  · rfl
  · rfl

/-- No agent's step is enabled from the third state on, so none stays enabled untaken. -/
theorem fairRun_weaklyFair (tn : Turn) : WeaklyFair tn fairRun := by
  intro i h
  have hq : turnEnabled (nextOf (nextOf lastSymbol)) tn = false := by cases tn <;> decide
  have he := h (i + 2) (Nat.le_add_right _ _)
  rw [show fairRun (i + 2) = nextOf (nextOf lastSymbol) from rfl, hq] at he
  cases he

/-- FairRequestReachesDone -/
theorem witness_fair_execution :
    Execution fairRun ∧ Fair fairRun ∧ (fairRun 0).Inv ∧ (fairRun 0).st = .streaming ∧ NotRearmed fairRun 0 := by
  refine ⟨fairRun_execution, ⟨fairRun_weaklyFair _, fairRun_weaklyFair _, fairRun_weaklyFair _⟩, lastSymbol_inv, rfl, ?_⟩
  intro j _
  obtain _ | _ | j := j
  · show lastSymbol.st ≠ .armed
    decide
  · show (nextOf lastSymbol).st ≠ .armed
    decide
  · show (nextOf (nextOf lastSymbol)).st ≠ .armed
    decide

end Sys2Proof.Tests
end

