-- ==== Sys2Proof/Proofs/Parameters.lean ====
section
/-! The parameters along a step (R33): each operation keeps them, so each turn does, so each step does. -/

namespace Sys2Proof.Machine

@[simp] theorem acknowledge_params (sig : Sig) (s : State) : (acknowledge sig s).params = s.params := by
  cases sig <;> rfl

@[simp] theorem encodeHalf_params (h : Half) (s : State) : (encodeHalf h s).params = s.params := by
  rw [encodeHalf_frame]

@[simp] theorem handler_params (sig : Sig) (s : State) : (handler sig s).params = s.params := by
  rcases handler_cases sig s with ⟨-, h⟩ | ⟨-, h⟩ <;> simp [h]

/-- One byte write keeps the parameters, for every list of writes: the empty one, on which nothing is written, too. -/
@[simp] theorem writeStep_params (pick : Nat) (ws : List PixWrite) (s : State) :
    (writeStep pick ws s).params = s.params := by
  unfold writeStep
  split <;> rfl

@[simp] theorem startWrites_params (ws : List PixWrite) (s : State) : (startWrites ws s).params = s.params :=
  writeStep_params _ ws s

theorem irqStep_keeps_params {sig : Sig} {s t : State} (h : irqStep sig s = .next t) : t.params = s.params := by
  obtain ⟨-, rfl⟩ := irqStep_cases h
  exact handler_params sig s

/-- Every operation of the table keeps the parameters. -/
theorem exec_keeps_params {i : Instr} {s t : State} (h : exec i s = .next t) : t.params = s.params := by
  cases i with
  | init dmaCh timer outCh clk =>
    obtain ⟨-, -, rfl | rfl⟩ := execInit_next h
    · exact initReady_params _ s
    · exact initFailed_params s
  | set index r g b =>
    obtain ⟨-, -, rfl⟩ := execSet_next h
    exact startWrites_params _ s
  | clear index =>
    obtain ⟨-, -, rfl⟩ := execClear_next h
    exact startWrites_params _ s
  | clearAll =>
    obtain ⟨-, rfl⟩ := execClearAll_next h
    exact startWrites_params _ s
  | display =>
    obtain ⟨-, -, rfl⟩ := execDisplay_next h
    rfl
  | irqHt => exact irqStep_keeps_params h
  | irqTc => exact irqStep_keeps_params h
  | stream =>
    obtain ⟨-, -, rfl⟩ := execStream_next h
    exact deliver_params s
  | encodeHalf half =>
    cases h
    exact encodeHalf_params half s

/-- The HOST's turn keeps the parameters, whether it starts a command or goes on with one. -/
theorem hostTurn_keeps_params {s t : State} (h : hostTurn s = .next t) : t.params = s.params := by
  rcases hostTurn_next h with ⟨-, -, rfl⟩ | ⟨w, rest, i, -, -, -, hi⟩ | ⟨ws, -, rfl⟩ | ⟨-, rfl⟩ | ⟨-, rfl⟩ |
    ⟨-, rfl⟩ | ⟨-, rfl⟩
  · rfl
  · exact (exec_keeps_params hi).trans rfl
  · exact writeStep_params _ ws s
  · exact displayD2_params s
  · exact encodeHalf_params .h0 s
  · exact encodeHalf_params .h1 s
  · exact displayD5_params s

theorem runTurn_keeps_params {tn : Turn} {s t : State} (h : runTurn tn s = .next t) : t.params = s.params := by
  cases tn with
  | host => exact hostTurn_keeps_params h
  | irqHt => exact exec_keeps_params (i := .irqHt) h
  | irqTc => exact exec_keeps_params (i := .irqTc) h
  | stream => exact exec_keeps_params (i := .stream) h

/-- Settles O52: a step waits, or runs one turn and uses up one choice; each keeps the parameters. -/
theorem parametersNeverChange : Obligations.ParametersNeverChange := by
  intro s t h
  obtain ⟨-, ⟨-, rfl⟩ | ⟨tn, u, -, -, hu, rfl⟩⟩ := step_next h
  · rfl
  · rw [dropChoice_params, runTurn_keeps_params hu]

end Sys2Proof.Machine
end

section
/-! What a HOST command can do first: the operation its word names is one of the five HOST commands (R59, R60), and each
has one first micro-step. -/

namespace Sys2Proof.Machine

/-- A command word names `INIT`, `SET`, `CLEAR`, `CLEAR_ALL` or `DISPLAY` (R59, R60). -/
theorem decodeCommand_cases {w : CmdWord} {i : Instr} (h : decodeCommand w = .ok i) :
    (∃ dmaCh timer outCh clk, i = .init dmaCh timer outCh clk) ∨ (∃ index r g b, i = .set index r g b) ∨
      (∃ index, i = .clear index) ∨ i = .clearAll ∨ i = .display := by
  unfold decodeCommand at h
  split at h
  · cases h; exact .inl ⟨_, _, _, _, rfl⟩
  split at h
  · cases h; exact .inr (.inl ⟨_, _, _, _, rfl⟩)
  split at h
  · split at h <;> cases h
    exact .inr (.inr (.inl ⟨_, rfl⟩))
  split at h
  · split at h <;> cases h
    exact .inr (.inr (.inr (.inl rfl)))
  split at h
  · split at h <;> cases h
    exact .inr (.inr (.inr (.inr rfl)))
  · cases h

/-- The byte writes of a command (R71 to R73): none but for a Pixel Store command. -/
def commandWrites (p : Params) : Instr → List PixWrite
  | .set index r g b => setWrites p index r g b
  | .clear index => clearWrites index
  | .clearAll => clearAllWrites p
  | _ => []

theorem index_of_mem_setWrites {p : Params} {index : Nat} {r g b : Byte} {w : PixWrite}
    (h : w ∈ setWrites p index r g b) : w.index = index := by
  simp only [setWrites, List.mem_cons, List.not_mem_nil, or_false] at h
  rcases h with rfl | rfl | rfl <;> rfl

theorem index_of_mem_clearWrites {index : Nat} {w : PixWrite} (h : w ∈ clearWrites index) : w.index = index := by
  simp only [clearWrites, List.mem_cons, List.not_mem_nil, or_false] at h
  rcases h with rfl | rfl | rfl <;> rfl

theorem index_of_mem_clearAllWrites {p : Params} {w : PixWrite} (h : w ∈ clearAllWrites p) : w.index < p.n := by
  obtain ⟨index, hi, hw⟩ := List.mem_flatMap.1 h
  exact index_of_mem_clearWrites hw ▸ List.mem_range.1 hi

theorem clearAllWrites_ne_nil {p : Params} (h : 1 ≤ p.n) : clearAllWrites p ≠ [] :=
  List.ne_nil_of_mem (List.mem_flatMap.2 ⟨0, List.mem_range.2 h, List.mem_cons_self⟩)

/-- What the first micro-step of a HOST command can do: `INIT` loads the configuration or fails, in UNINIT alone; a Pixel
Store command does one of its writes, all of them inside the strip; `DISPLAY` does D1, in READY alone. -/
theorem hostCommand_next {w : CmdWord} {i : Instr} {s t : State} (hd : decodeCommand w = .ok i)
    (h : exec i s = .next t) :
    s.work = .idle ∧
    ((∃ dmaCh timer outCh clk, i = .init dmaCh timer outCh clk ∧ s.initState = .uninit ∧
        (t = initReady ⟨dmaCh, timer, outCh, clk⟩ s ∨ t = initFailed s)) ∨
      ((∀ x ∈ commandWrites s.params i, x.index < s.params.n) ∧
        (1 ≤ s.params.n → commandWrites s.params i ≠ []) ∧ t = startWrites (commandWrites s.params i) s) ∨
      (i = .display ∧ s.initState = .ready ∧ t = { s with xferEn := false, st := .armed, work := .display .d2 })) := by
  rcases decodeCommand_cases hd with ⟨dmaCh, timer, outCh, clk, rfl⟩ | ⟨index, r, g, b, rfl⟩ | ⟨index, rfl⟩ | rfl | rfl
  · obtain ⟨hw, hi, ht⟩ := execInit_next h
    exact ⟨hw, .inl ⟨_, _, _, _, rfl, hi, ht⟩⟩
  · obtain ⟨hw, hi, ht⟩ := execSet_next h
    exact ⟨hw, .inr (.inl ⟨fun x hx => index_of_mem_setWrites hx ▸ hi, fun _ => List.cons_ne_nil _ _, ht⟩)⟩
  · obtain ⟨hw, hi, ht⟩ := execClear_next h
    exact ⟨hw, .inr (.inl ⟨fun x hx => index_of_mem_clearWrites hx ▸ hi, fun _ => List.cons_ne_nil _ _, ht⟩)⟩
  · obtain ⟨hw, ht⟩ := execClearAll_next h
    exact ⟨hw, .inr (.inl ⟨fun x hx => index_of_mem_clearAllWrites hx, clearAllWrites_ne_nil, ht⟩)⟩
  · obtain ⟨hw, hi, ht⟩ := execDisplay_next h
    exact ⟨hw, .inr (.inr ⟨rfl, hi, ht⟩)⟩

/-- A byte-write micro-step changes the Pixel Store and the work left, nothing else, whatever the list of writes (R69). -/
theorem writeStep_frame (pick : Nat) (ws : List PixWrite) (s : State) :
    writeStep pick ws s = { s with pix := (writeStep pick ws s).pix, work := (writeStep pick ws s).work } := by
  unfold writeStep
  split <;> rfl

theorem startWrites_frame (ws : List PixWrite) (s : State) :
    startWrites ws s = { s with pix := (startWrites ws s).pix, work := (startWrites ws s).work } :=
  writeStep_frame _ ws s

end Sys2Proof.Machine
end

section
/-! The fields of a state after ENCODE_HALF (R82), the half it fills, byte by byte (R84), and where slots stand in the
buffer (R40). -/

namespace Sys2Proof.Machine

@[simp] theorem encodeHalf_cursor (h : Half) (s : State) : (encodeHalf h s).cursor = s.cursor + s.params.b := by
  rw [encodeHalf_frame]
@[simp] theorem encodeHalf_rd (h : Half) (s : State) : (encodeHalf h s).rd = s.rd := by
  rw [encodeHalf_frame]
@[simp] theorem encodeHalf_ccr (h : Half) (s : State) : (encodeHalf h s).ccr = s.ccr := by
  rw [encodeHalf_frame]
@[simp] theorem encodeHalf_st (h : Half) (s : State) : (encodeHalf h s).st = s.st := by
  rw [encodeHalf_frame]
@[simp] theorem encodeHalf_xferEn (h : Half) (s : State) : (encodeHalf h s).xferEn = s.xferEn := by
  rw [encodeHalf_frame]
@[simp] theorem encodeHalf_pendHalf (h : Half) (s : State) : (encodeHalf h s).pendHalf = s.pendHalf := by
  rw [encodeHalf_frame]
@[simp] theorem encodeHalf_pendFull (h : Half) (s : State) : (encodeHalf h s).pendFull = s.pendFull := by
  rw [encodeHalf_frame]
@[simp] theorem encodeHalf_initState (h : Half) (s : State) : (encodeHalf h s).initState = s.initState := by
  rw [encodeHalf_frame]
@[simp] theorem encodeHalf_cfg (h : Half) (s : State) : (encodeHalf h s).cfg = s.cfg := by
  rw [encodeHalf_frame]
@[simp] theorem encodeHalf_status (h : Half) (s : State) : (encodeHalf h s).status = s.status := by
  rw [encodeHalf_frame]
@[simp] theorem encodeHalf_pix (h : Half) (s : State) : (encodeHalf h s).pix = s.pix := by
  rw [encodeHalf_frame]
@[simp] theorem encodeHalf_out (h : Half) (s : State) : (encodeHalf h s).out = s.out := by
  rw [encodeHalf_frame]
@[simp] theorem encodeHalf_outMark (h : Half) (s : State) : (encodeHalf h s).outMark = s.outMark := by
  rw [encodeHalf_frame]
@[simp] theorem encodeHalf_encCalls (h : Half) (s : State) : (encodeHalf h s).encCalls = s.encCalls + 1 := by
  rw [encodeHalf_frame]
@[simp] theorem encodeHalf_disableCnt (h : Half) (s : State) : (encodeHalf h s).disableCnt = s.disableCnt := by
  rw [encodeHalf_frame]
@[simp] theorem encodeHalf_overrun (h : Half) (s : State) : (encodeHalf h s).overrun = s.overrun := by
  rw [encodeHalf_frame]
@[simp] theorem encodeHalf_fault (h : Half) (s : State) : (encodeHalf h s).fault = s.fault := by
  rw [encodeHalf_frame]
@[simp] theorem encodeHalf_refused (h : Half) (s : State) : (encodeHalf h s).refused = s.refused := by
  rw [encodeHalf_frame]
@[simp] theorem encodeHalf_cmds (h : Half) (s : State) : (encodeHalf h s).cmds = s.cmds := by
  rw [encodeHalf_frame]
@[simp] theorem encodeHalf_work (h : Half) (s : State) : (encodeHalf h s).work = s.work := by
  rw [encodeHalf_frame]
@[simp] theorem encodeHalf_sched (h : Half) (s : State) : (encodeHalf h s).sched = s.sched := by
  rw [encodeHalf_frame]
@[simp] theorem encodeHalf_fresh (h : Half) (s : State) : (encodeHalf h s).fresh = s.fresh := by
  rw [encodeHalf_frame]

theorem slotAddr_eq (p : Params) (h : Half) (slot : Nat) : slotAddr p h slot = 24 * (h.toNat * p.b + slot) := by
  rw [slotAddr, halfBase, Params.half, Nat.mul_add, Nat.mul_left_comm]

/-- `ENCODE_HALF` fills its half with the `B` slots from the cursor on, and leaves the other bytes as they read (R82, R84). -/
theorem halfEncoded_encodeHalf (h : Half) (s : State) : HalfEncoded h s (encodeHalf h s) := by
  refine ⟨fun k hk q hq => ?_, fun j hj => ?_⟩
  · have hin : halfBase s.params h ≤ slotAddr s.params h k + q ∧
        slotAddr s.params h k + q < halfBase s.params h + s.params.half := by
      simp only [slotAddr, Params.half]
      omega
    have hoff : slotAddr s.params h k + q - halfBase s.params h = 24 * k + q := by
      rw [slotAddr]
      omega
    have hdiv : (24 * k + q) / 24 = k := by omega
    have hmod : (24 * k + q) % 24 = q := by omega
    have hlen : q < (slotSymbols s (s.cursor + k)).length := by rwa [slotSymbols_length]
    rw [bufRead, get_encodeHalf, if_pos hin, hoff, hdiv, hmod, List.getElem?_eq_getElem hlen, Option.getD_some]
  · have hout : ¬ (halfBase s.params h ≤ j ∧ j < halfBase s.params h + s.params.half) := by omega
    rw [bufRead, get_encodeHalf, if_neg hout]
    rfl

end Sys2Proof.Machine
end

section
/-! The invariant of the machine (R31, R24, R52, R103, R110): each operation keeps it, so each turn does, so each step
does. -/

namespace Sys2Proof.Machine

/-! ### What the invariant says of a state at once -/

namespace State.Inv

variable {s : State}

/-- A flag is pending only while streaming (R31 (a), (b)). -/
theorem streaming_of_pending (h : s.Inv) {sig : Sig} (hp : pending sig s = true) : s.st = .streaming := by
  rw [← h.enabled_iff_streaming]
  by_contra hx
  obtain ⟨h1, h2⟩ := h.quiet_when_disabled (by simpa using hx)
  cases sig <;> simp_all [pending]

/-- Outside STREAMING the transfer is disabled and no flag is pending (R31 (a), (b)). -/
theorem quiet (h : s.Inv) (hst : s.st ≠ .streaming) : s.xferEn = false ∧ s.pendHalf = false ∧ s.pendFull = false := by
  have hx : s.xferEn = false := by simpa using mt h.enabled_iff_streaming.1 hst
  exact ⟨hx, h.quiet_when_disabled hx⟩

/-- A block that is not IDLE is READY (R31 (e)). -/
theorem ready_of_not_idle (h : s.Inv) (hst : s.st ≠ .idle) : s.initState = .ready := by
  by_contra hi
  exact hst (h.not_ready_idle hi).1

theorem armed_of_display (h : s.Inv) {d : DisplayStep} (hw : s.work = .display d) : s.st = .armed :=
  h.armed_iff_display.2 ⟨d, hw⟩

theorem not_armed (h : s.Inv) (hw : ∀ d, s.work ≠ .display d) : s.st ≠ .armed := fun ha => by
  obtain ⟨d, hd⟩ := h.armed_iff_display.1 ha
  exact hw d hd

theorem no_display (h : s.Inv) (hst : s.st ≠ .armed) (d : DisplayStep) : s.work ≠ .display d :=
  fun hd => hst (h.armed_of_display hd)

end State.Inv

theorem not_pending_of_host_enabled {s : State} (h : turnEnabled s .host = true) :
    s.pendHalf = false ∧ s.pendFull = false := by
  have hq : (!anyPending s) = true := (Bool.and_eq_true_iff.1 h).2
  simpa [anyPending] using hq

theorem displayProgress_congr {s t : State} (hp : t.params = s.params) (hc : t.cursor = s.cursor) (hb : t.buf = s.buf)
    {d : DisplayStep} (h : displayProgress s d) : displayProgress t d := by
  cases d with
  | d2 => trivial
  | d3 => exact hc.trans h
  | d4 => simpa only [displayProgress, bufFilled, hp, hc, hb] using h
  | d5 => simpa only [displayProgress, bufFilled, hp, hc, hb] using h

/-! ### The step's inputs -/

/-- The invariant does not speak of the step's inputs: commands still to come, schedule, free values. -/
theorem inv_inputs {s : State} (h : s.Inv) (cmds : List CmdWord) (sched : List Choice) (fresh : Nat) :
    ({ s with cmds := cmds, sched := sched, fresh := fresh } : State).Inv :=
  { h with display_progress := fun d hd => displayProgress_congr rfl rfl rfl (h.display_progress d hd) }

theorem inv_dropChoice {s : State} (h : s.Inv) : (dropChoice s).Inv := by
  obtain ⟨sched, fresh, e⟩ := dropChoice_eq s
  exact e ▸ inv_inputs h s.cmds sched fresh

/-! ### Reset -/

theorem resetWith_inv {p : Params} (hp : p.Ok) : (State.resetWith p).Inv where
  params_ok := hp
  pix_wf := List.Pairwise.nil
  buf_wf := List.Pairwise.nil
  pix_bound := by simp [State.resetWith]
  buf_bound := by simp [State.resetWith]
  rd_range := Nat.mod_lt _ (Nat.mul_pos (by decide) hp.b_pos)
  enabled_iff_streaming := by simp [State.resetWith]
  quiet_when_disabled := fun _ => ⟨rfl, rfl⟩
  cursor_bound := by simp [State.resetWith]
  done_cursor := by simp [State.resetWith]
  not_ready_idle := fun _ => ⟨rfl, rfl⟩
  buf_symbols := by simp [State.resetWith]
  armed_iff_display := by simp [State.resetWith]
  display_progress := by simp [State.resetWith]
  writes_in_range := by simp [State.resetWith]
  filled := by simp [State.resetWith]
  both_pending := by simp [State.resetWith]
  half_flag_place := by simp [State.resetWith]
  full_flag_place := by simp [State.resetWith]
  mark_in_out := Nat.le_refl 0

/-! ### INIT -/

theorem inv_initReady {s : State} (h : s.Inv) (hi : s.initState = .uninit) (cfg : CfgRegs) : (initReady cfg s).Inv := by
  obtain ⟨hst, -⟩ := h.not_ready_idle (by simp [hi])
  have hnd := h.no_display (by simp [hst])
  exact { h with
    enabled_iff_streaming := by simp
    quiet_when_disabled := fun _ => ⟨rfl, rfl⟩
    cursor_bound := by simp
    done_cursor := by simp
    not_ready_idle := fun _ => ⟨rfl, rfl⟩
    armed_iff_display := by simp [hnd]
    display_progress := fun d hd => absurd hd (hnd d)
    filled := by simp
    both_pending := by simp
    half_flag_place := by simp
    full_flag_place := by simp }

theorem inv_initFailed {s : State} (h : s.Inv) (hi : s.initState = .uninit) : (initFailed s).Inv :=
  { h with
    not_ready_idle := fun _ => h.not_ready_idle (by simp [hi])
    display_progress := fun d hd => displayProgress_congr rfl rfl rfl (h.display_progress d hd) }

/-! ### The Pixel Store commands -/

theorem workOf_ne_display (ws : List PixWrite) (d : DisplayStep) : workOf ws ≠ .display d := by
  cases ws <;> simp [workOf]

theorem workOf_eq_writes {ws ws' : List PixWrite} (h : workOf ws = .writes ws') : ws' = ws ∧ ws' ≠ [] := by
  cases ws with
  | nil => cases h
  | cons w ws => cases h; exact ⟨rfl, List.cons_ne_nil w ws⟩

/-- A byte-write micro-step keeps the invariant when its writes are inside the strip (R35, R45, R69). -/
theorem inv_writeStep {s : State} (h : s.Inv) (hst : s.st ≠ .armed) (pick : Nat) {ws : List PixWrite} (hne : ws ≠ [])
    (hin : ∀ w ∈ ws, w.index < s.params.n) : (writeStep pick ws s).Inv := by
  obtain ⟨w, rest, hperm, e⟩ := writeStep_cases pick s hne
  have hw : w.index < s.params.n := hin w (hperm.subset List.mem_cons_self)
  rw [e]
  exact { h with
    pix_wf := Memory.wf_put _ _ h.pix_wf
    pix_bound := fun c hc => by
      rcases Memory.mem_put hc with rfl | hc
      · exact pixAddr_lt w.chan hw
      · exact h.pix_bound c hc
    armed_iff_display := ⟨fun ha => absurd ha hst, fun ⟨d, hd⟩ => absurd hd (workOf_ne_display rest d)⟩
    display_progress := fun d hd => absurd hd (workOf_ne_display rest d)
    writes_in_range := fun ws' hws' => by
      obtain ⟨rfl, hne'⟩ := workOf_eq_writes hws'
      exact ⟨hne', fun x hx => hin x (hperm.subset (List.mem_cons_of_mem w hx))⟩ }

/-! ### The buffer after ENCODE_HALF -/

theorem halfBase_add_half_le (p : Params) (h : Half) : halfBase p h + p.half ≤ p.buflen := by
  rw [buflen_eq]
  cases h <;> simp only [halfBase, Half.toNat] <;> omega

theorem encodeHalf_buf_bound {s : State} (half : Half) (hb : ∀ c ∈ s.buf, c.1 < s.params.buflen) :
    ∀ c ∈ (encodeHalf half s).buf, c.1 < s.params.buflen := fun c hc => by
  rcases mem_encodeHalf hc with ⟨-, h2, -⟩ | hc
  · exact Nat.lt_of_lt_of_le h2 (halfBase_add_half_le s.params half)
  · exact hb c hc

theorem encodeHalf_buf_symbols {s : State} (half : Half)
    (hb : ∀ c ∈ s.buf, c.2 = s.params.highBit ∨ c.2 = s.params.lowBit) :
    ∀ c ∈ (encodeHalf half s).buf, c.2 = s.params.highBit ∨ c.2 = s.params.lowBit := fun c hc => by
  rcases mem_encodeHalf hc with ⟨-, -, hy⟩ | hc
  · exact hy
  · exact hb c hc

/-- Every byte of the half that `ENCODE_HALF` fills has been written, and what was filled stays filled. -/
theorem bufFilled_encodeHalf {s : State} (half : Half) {lo hi : Nat}
    (h : ∀ j, lo ≤ j → j < hi → halfBase s.params half ≤ j ∧ j < halfBase s.params half + s.params.half ∨
      (Memory.get s.buf j).isSome = true) : bufFilled (encodeHalf half s) lo hi :=
  fun j hlo hhi => isSome_get_encodeHalf half (h j hlo hhi)

/-- `ENCODE_HALF` keeps the invariant from ARMED on, the micro-step of `DISPLAY` that called it being over. -/
theorem inv_encodeHalf_armed {s : State} (h : s.Inv) (hst : s.st = .armed) (half : Half) {d : DisplayStep}
    (hd : displayProgress (encodeHalf half s) d) : ({ encodeHalf half s with work := .display d } : State).Inv := by
  have hp := displayProgress_congr (t := { encodeHalf half s with work := .display d }) rfl rfl rfl hd
  rw [encodeHalf_frame] at hp ⊢
  exact { h with
    buf_wf := wf_encodeHalf half h.buf_wf
    buf_bound := encodeHalf_buf_bound half h.buf_bound
    buf_symbols := encodeHalf_buf_symbols half h.buf_symbols
    cursor_bound := by simp [hst]
    done_cursor := by simp [hst]
    armed_iff_display := by simp [hst]
    display_progress := fun d' hd' => by cases hd'; exact hp
    writes_in_range := by simp
    filled := by simp [hst] }

/-! ### DISPLAY -/

theorem inv_displayD1 {s : State} (h : s.Inv) (hi : s.initState = .ready) (hq : s.pendHalf = false ∧ s.pendFull = false) :
    ({ s with xferEn := false, st := .armed, work := .display .d2 } : State).Inv :=
  { h with
    enabled_iff_streaming := by simp
    quiet_when_disabled := fun _ => hq
    cursor_bound := by simp
    done_cursor := by simp
    not_ready_idle := fun hn => absurd hi hn
    armed_iff_display := by simp
    display_progress := fun d hd => by cases hd; trivial
    writes_in_range := by simp
    filled := by simp }

theorem inv_displayD2 {s : State} (h : s.Inv) (hst : s.st = .armed) : (displayD2 s).Inv :=
  { h with
    cursor_bound := by simp [hst]
    done_cursor := by simp [hst]
    armed_iff_display := by simp [hst]
    display_progress := fun d hd => by cases hd; rfl
    writes_in_range := by simp
    filled := by simp [hst] }

theorem inv_displayD3 {s : State} (h : s.Inv) (hw : s.work = .display .d3) :
    ({ encodeHalf .h0 s with work := .display .d4 } : State).Inv := by
  have hc : s.cursor = 0 := h.display_progress _ hw
  refine inv_encodeHalf_armed h (h.armed_of_display hw) .h0 ⟨?_, ?_⟩
  · simp [hc]
  · refine bufFilled_encodeHalf .h0 fun j _ hj => .inl ?_
    simpa [halfBase, Half.toNat] using hj

theorem inv_displayD4 {s : State} (h : s.Inv) (hw : s.work = .display .d4) :
    ({ encodeHalf .h1 s with work := .display .d5 } : State).Inv := by
  obtain ⟨hc, hf⟩ : s.cursor = s.params.b ∧ bufFilled s 0 s.params.half := h.display_progress _ hw
  refine inv_encodeHalf_armed h (h.armed_of_display hw) .h1 ⟨?_, ?_⟩
  · simp [hc, Nat.two_mul]
  · refine bufFilled_encodeHalf .h1 fun j hlo hj => ?_
    rw [encodeHalf_params, buflen_eq] at hj
    rcases Nat.lt_or_ge j s.params.half with hlt | hge
    · exact .inr (hf j hlo hlt)
    · exact .inl (by simp only [halfBase, Half.toNat]; omega)

theorem inv_displayD5 {s : State} (h : s.Inv) (hw : s.work = .display .d5) : (displayD5 s).Inv := by
  have hst : s.st = .armed := h.armed_of_display hw
  obtain ⟨hc, hf⟩ : s.cursor = 2 * s.params.b ∧ bufFilled s 0 s.params.buflen := h.display_progress _ hw
  obtain ⟨-, hh, hfu⟩ := h.quiet (by simp [hst])
  obtain ⟨-, -, hK⟩ := signals_spec h.params_ok
  exact { h with
    rd_range := Nat.mul_pos (by decide) h.params_ok.b_pos
    enabled_iff_streaming := by simp
    quiet_when_disabled := by simp
    cursor_bound := fun _ => by
      rw [displayD5_cursor, displayD5_params, hc]
      exact ⟨Nat.dvd_mul_left _ _, Nat.le_refl _, Nat.mul_le_mul_right _ (by omega)⟩
    done_cursor := by simp
    not_ready_idle := fun hn => absurd (h.ready_of_not_idle (by simp [hst])) hn
    armed_iff_display := by simp
    display_progress := by simp
    writes_in_range := by simp
    filled := fun _ => hf
    half_flag_place := by simp [hh]
    full_flag_place := by simp [hfu]
    mark_in_out := Nat.le_refl _ }

/-! ### The handler -/

theorem inv_terminate {s : State} (h : s.Inv) (hst : s.st = .streaming) (hc : s.params.threshold ≤ s.cursor) :
    (terminate s).Inv := by
  have hnd := h.no_display (by simp [hst])
  exact { h with
    enabled_iff_streaming := by simp
    quiet_when_disabled := fun _ => ⟨rfl, rfl⟩
    cursor_bound := fun _ => h.cursor_bound (.inl hst)
    done_cursor := fun _ => hc
    not_ready_idle := fun hn => absurd (h.ready_of_not_idle (by simp [hst])) hn
    armed_iff_display := by simp [hnd]
    display_progress := fun d hd => absurd hd (hnd d)
    filled := fun _ => h.filled (.inl hst)
    both_pending := by simp
    half_flag_place := by simp
    full_flag_place := by simp }

/-- Below the threshold there is room for one more half under the cursor bound (R96, R97, R103). -/
theorem refill_cursor_bound {p : Params} (hp : p.Ok) {cursor : Nat} (hd : p.b ∣ cursor) (hc : cursor < p.threshold) :
    cursor + p.b ≤ (p.signals + 1) * p.b := by
  obtain ⟨m, rfl⟩ := hd
  obtain ⟨hn, -, -⟩ := signals_spec hp
  have hlt : p.b * m < p.b * (p.signals + 1) := by
    rw [Nat.mul_comm p.b (p.signals + 1), Nat.add_one_mul]
    exact Nat.lt_of_lt_of_le hc (Nat.add_le_add_right hn p.b)
  have hm : m + 1 ≤ p.signals + 1 := Nat.lt_of_mul_lt_mul_left hlt
  calc p.b * m + p.b = (m + 1) * p.b := by rw [Nat.add_one_mul, Nat.mul_comm]
    _ ≤ (p.signals + 1) * p.b := Nat.mul_le_mul_right _ hm

/-- `ENCODE_HALF` keeps the invariant while streaming below the threshold. -/
theorem inv_encodeHalf_streaming {s : State} (h : s.Inv) (hst : s.st = .streaming) (hc : s.cursor < s.params.threshold)
    (half : Half) : (encodeHalf half s).Inv := by
  have hnd := h.no_display (by simp [hst])
  obtain ⟨hdvd, hlo, -⟩ := h.cursor_bound (.inl hst)
  have hfill : bufFilled (encodeHalf half s) 0 s.params.buflen :=
    bufFilled_encodeHalf half fun j hj hj' => .inr (h.filled (.inl hst) j hj hj')
  have hcb := refill_cursor_bound h.params_ok hdvd hc
  rw [encodeHalf_frame] at hfill ⊢
  exact { h with
    buf_wf := wf_encodeHalf half h.buf_wf
    buf_bound := encodeHalf_buf_bound half h.buf_bound
    buf_symbols := encodeHalf_buf_symbols half h.buf_symbols
    cursor_bound := fun _ => ⟨Nat.dvd_add hdvd (Nat.dvd_refl _), Nat.le_add_right_of_le hlo, hcb⟩
    done_cursor := by simp [hst]
    display_progress := fun d hd => absurd hd (hnd d)
    filled := fun _ => hfill }

theorem inv_acknowledge {s : State} (h : s.Inv) (sig : Sig) : (acknowledge sig s).Inv := by
  have hprog : ∀ d, (acknowledge sig s).work = .display d → displayProgress (acknowledge sig s) d := by
    cases sig <;> exact fun d hd => displayProgress_congr rfl rfl rfl (h.display_progress d hd)
  cases sig with
  | ht =>
    exact { h with
      quiet_when_disabled := fun hx => ⟨rfl, (h.quiet_when_disabled hx).2⟩
      display_progress := hprog
      both_pending := by simp
      half_flag_place := by simp }
  | tc =>
    exact { h with
      quiet_when_disabled := fun hx => ⟨(h.quiet_when_disabled hx).1, rfl⟩
      display_progress := hprog
      both_pending := by simp
      full_flag_place := by simp }

theorem inv_handler {s : State} (h : s.Inv) {sig : Sig} (hp : pending sig s = true) : (handler sig s).Inv := by
  have hst := h.streaming_of_pending hp
  rcases handler_cases sig s with ⟨hc, e⟩ | ⟨hc, e⟩
  · rw [e]
    exact inv_terminate h hst hc
  · rw [e]
    exact inv_acknowledge (inv_encodeHalf_streaming h hst hc _) sig

/-! ### STREAM -/

/-- The new read index: one further in the buffer, or back at its start (R106). -/
theorem next_rd_cases {p : Params} {rd : Nat} (h : rd < p.buflen) :
    (rd + 1 < p.buflen ∧ (rd + 1) % p.buflen = rd + 1) ∨ (rd + 1 = p.buflen ∧ (rd + 1) % p.buflen = 0) := by
  rcases Nat.lt_or_ge (rd + 1) p.buflen with hlt | hge
  · exact .inl ⟨hlt, Nat.mod_eq_of_lt hlt⟩
  · have e : rd + 1 = p.buflen := by omega
    exact .inr ⟨e, by rw [e, Nat.mod_self]⟩

theorem params_half_pos {p : Params} (hp : p.Ok) : 0 < p.half := Nat.mul_pos (by decide) hp.b_pos

/-- `pend_half` is set after a delivery if it was before or half 0 has been left (R109). -/
theorem deliver_pendHalf_iff {s : State} :
    (deliver s).pendHalf = true ↔ s.pendHalf = true ∨ (s.rd + 1) % s.params.buflen = s.params.half := by
  rw [deliver_pendHalf, Bool.or_eq_true, decide_eq_true_iff]

/-- `pend_full` is set after a delivery if it was before or half 1 has been left (R109). -/
theorem deliver_pendFull_iff {s : State} :
    (deliver s).pendFull = true ↔ s.pendFull = true ∨ (s.rd + 1) % s.params.buflen = 0 := by
  rw [deliver_pendFull, Bool.or_eq_true, decide_eq_true_iff]

/-- A delivery that leaves the run on time found it on time and leaves at most one flag set (R110). -/
theorem deliver_on_time {s : State} (h : (deliver s).overrun = false) :
    s.overrun = false ∧ ¬ ((deliver s).pendHalf = true ∧ (deliver s).pendFull = true) := by
  have e : (deliver s).overrun = (s.overrun || ((deliver s).pendHalf && (deliver s).pendFull)) := rfl
  rw [e, Bool.or_eq_false_iff] at h
  obtain ⟨hon, hone⟩ := h
  exact ⟨hon, fun hb => Bool.false_ne_true (hone.symm.trans (Bool.and_eq_true_iff.2 hb))⟩

/-- `STREAM` keeps the invariant: a flag left set while the other is raised is an overrun, so with no overrun `rd` is on the
other side of the buffer from the half announced as free (R52, R109, R110). -/
theorem inv_deliver {s : State} (h : s.Inv) (hx : s.xferEn = true) : (deliver s).Inv := by
  have hst : s.st = .streaming := h.enabled_iff_streaming.1 hx
  have hnd := h.no_display (by simp [hst])
  have hpos := params_half_pos h.params_ok
  have hlen := buflen_eq s.params
  exact { h with
    rd_range := Nat.mod_lt _ (by omega)
    quiet_when_disabled := fun hn => by cases hx.symm.trans hn
    display_progress := fun d hd => absurd hd (hnd d)
    both_pending := fun hh hf => by
      by_contra hov
      exact (deliver_on_time (by simpa using hov)).2 ⟨hh, hf⟩
    half_flag_place := fun hov hh => by
      obtain ⟨hon, hone⟩ := deliver_on_time hov
      rcases next_rd_cases h.rd_range with ⟨-, e⟩ | ⟨-, e⟩
      · rw [deliver_params, deliver_rd, e]
        rcases deliver_pendHalf_iff.1 hh with hh | hh
        · exact Nat.le_add_right_of_le (h.half_flag_place hon hh)
        · exact Nat.le_of_eq (hh.symm.trans e)
      · exact absurd ⟨hh, deliver_pendFull_iff.2 (.inr e)⟩ hone
    full_flag_place := fun hov hh => by
      obtain ⟨hon, hone⟩ := deliver_on_time hov
      rcases next_rd_cases h.rd_range with ⟨-, e⟩ | ⟨-, e⟩ <;> rw [deliver_params, deliver_rd, e]
      · have hne : s.rd + 1 ≠ s.params.half := fun he => hone ⟨deliver_pendHalf_iff.2 (.inr (e.trans he)), hh⟩
        rcases deliver_pendFull_iff.1 hh with hf | h0
        · exact Nat.lt_of_le_of_ne (h.full_flag_place hon hf) hne
        · exact absurd (e.symm.trans h0) (Nat.succ_ne_zero s.rd)
      · exact hpos
    mark_in_out := by
      have := h.mark_in_out
      simp only [deliver_outMark, deliver_out, List.length_append]
      omega }

/-! ### Turns and steps -/

theorem inv_hostCommand {w : CmdWord} {i : Instr} {s t : State} (hd : decodeCommand w = .ok i)
    (h : exec i s = .next t) (hs : s.Inv) (hq : s.pendHalf = false ∧ s.pendFull = false) : t.Inv := by
  obtain ⟨hw, ⟨dmaCh, timer, outCh, clk, rfl, hi, rfl | rfl⟩ | ⟨hin, hne, rfl⟩ | ⟨rfl, hi, rfl⟩⟩ :=
    hostCommand_next hd h
  · exact inv_initReady hs hi _
  · exact inv_initFailed hs hi
  · exact inv_writeStep hs (hs.not_armed (by simp [hw])) _ (hne hs.params_ok.n_pos) hin
  · exact inv_displayD1 hs hi hq

theorem inv_hostTurn {s t : State} (h : hostTurn s = .next t) (hs : s.Inv)
    (hq : s.pendHalf = false ∧ s.pendFull = false) : t.Inv := by
  rcases hostTurn_next h with ⟨-, -, rfl⟩ | ⟨w, rest, i, -, -, hd, hi⟩ | ⟨ws, hw, rfl⟩ | ⟨hw, rfl⟩ | ⟨hw, rfl⟩ |
    ⟨hw, rfl⟩ | ⟨hw, rfl⟩
  · exact hs
  · exact inv_hostCommand hd hi (inv_inputs hs rest s.sched s.fresh) hq
  · obtain ⟨hne, hin⟩ := hs.writes_in_range ws hw
    exact inv_writeStep hs (hs.not_armed (by simp [hw])) _ hne hin
  · exact inv_displayD2 hs (hs.armed_of_display hw)
  · exact inv_displayD3 hs hw
  · exact inv_displayD4 hs hw
  · exact inv_displayD5 hs hw

theorem inv_irqStep {sig : Sig} {s t : State} (h : irqStep sig s = .next t) (hs : s.Inv) : t.Inv := by
  obtain ⟨hp, rfl⟩ := irqStep_cases h
  exact inv_handler hs hp

theorem inv_runTurn {tn : Turn} {s t : State} (h : runTurn tn s = .next t) (hen : turnEnabled s tn = true)
    (hs : s.Inv) : t.Inv := by
  cases tn with
  | host => exact inv_hostTurn h hs (not_pending_of_host_enabled hen)
  | irqHt => exact inv_irqStep (sig := .ht) h hs
  | irqTc => exact inv_irqStep (sig := .tc) h hs
  | stream =>
    obtain ⟨hx, -, rfl⟩ := execStream_next h
    exact inv_deliver hs hx

/-- Settles O48: a step waits, or runs one enabled turn, which keeps the invariant, and uses up one choice, of which the
invariant does not speak. -/
theorem stepKeepsInvariant : Obligations.StepKeepsInvariant := by
  intro s t hs h
  obtain ⟨-, ⟨-, rfl⟩ | ⟨tn, u, -, hen, hu, rfl⟩⟩ := step_next h
  · exact hs
  · exact inv_dropChoice (inv_runTurn hu hen hs)

/-- Settles O47: no memory is written, no agent but the HOST can step, and `rd` is taken modulo the buffer's length. -/
theorem resetMeetsInvariant : Obligations.ResetMeetsInvariant :=
  ⟨resetWith_inv Config.params_ok, fun _ cmds hp => inv_inputs (resetWith_inv hp) cmds [] 0⟩

end Sys2Proof.Machine
end

section
/-! The frame of a display request (R96, R97, R99, R101): while no deadline is missed, a delivery and an IRQ step keep it;
no other agent has a step, the HOST being silent. -/

namespace Sys2Proof.Machine

/-! ### Counting in a ring of two halves -/

/-- Slot `k` of the `m`-th half filled stands in half `m mod 2` (R38, R40). -/
theorem ring_slot {m b k : Nat} (hk : k < b) : (m * b + k) % (2 * b) = m % 2 * b + k := by
  have hb : 0 < b := Nat.zero_lt_of_lt hk
  rw [Nat.mul_comm 2 b, Nat.mod_mul, Nat.mul_comm m b, Nat.mul_add_mod, Nat.mod_eq_of_lt hk, Nat.mul_add_div hb,
    Nat.div_eq_of_lt hk, Nat.add_zero, Nat.add_comm, Nat.mul_comm]

/-- Slots of the half filled two halves after the `m`-th stand where its own do (R40). -/
theorem ring_slotAddr {p : Params} {half : Half} {m k : Nat} (hhalf : m % 2 = half.toNat) (hk : k < p.b) :
    24 * (((m + 2) * p.b + k) % (2 * p.b)) = slotAddr p half k := by
  rw [ring_slot hk, Nat.add_mod_right, hhalf, slotAddr_eq]

/-- Slots of the half filled next after the `m`-th stand in the other half of the buffer (R38). -/
theorem ring_slot_outside {p : Params} {half : Half} {m k q : Nat} (hhalf : m % 2 = half.toNat) (hk : k < p.b)
    (hq : q < 24) :
    24 * (((m + 1) * p.b + k) % (2 * p.b)) + q < halfBase p half ∨
      halfBase p half + p.half ≤ 24 * (((m + 1) * p.b + k) % (2 * p.b)) + q := by
  rw [ring_slot hk]
  cases half with
  | h0 =>
    have hodd : (m + 1) % 2 = 1 := Nat.succ_mod_two_eq_one_iff.2 hhalf
    simp only [hodd, halfBase, Half.toNat, Params.half]
    omega
  | h1 =>
    have heven : (m + 1) % 2 = 0 := Nat.succ_mod_two_eq_zero_iff.2 hhalf
    simp only [heven, halfBase, Half.toNat, Params.half]
    omega

/-- The symbol after the `d`-th is the first of a half exactly when `HALF` divides `d + 1`; half 1 follows an even number of
halves left, half 0 an odd one (R109). -/
theorem succ_mod_ring {d half : Nat} (hpos : 0 < half) :
    ((d + 1) % (2 * half) = half ↔ half ∣ d + 1 ∧ d / half % 2 = 0) ∧
      ((d + 1) % (2 * half) = 0 ↔ half ∣ d + 1 ∧ d / half % 2 = 1) := by
  by_cases hdvd : half ∣ d + 1
  · have hq : (d + 1) / half = d / half + 1 := by rw [Nat.succ_div, if_pos hdvd]
    have e : d + 1 = (d / half + 1) * half := by rw [← hq, Nat.div_mul_cancel hdvd]
    have hmod : (d + 1) % (2 * half) = (d / half + 1) % 2 * half := by
      conv_lhs => rw [e]
      exact Nat.mul_mod_mul_right half (d / half + 1) 2
    rw [hmod]
    rcases Nat.mod_two_eq_zero_or_one (d / half) with h0 | h1
    · have h1' : (d / half + 1) % 2 = 1 := by omega
      simp [hdvd, h0, h1', Nat.ne_of_gt hpos]
    · have h0' : (d / half + 1) % 2 = 0 := by omega
      simp [hdvd, h1, h0', Nat.ne_of_lt hpos]
  · have hne : ∀ x, half ∣ x → (d + 1) % (2 * half) ≠ x := fun x hx he =>
      hdvd ((Nat.dvd_mod_iff (Nat.dvd_mul_left half 2)).1 (he ▸ hx))
    simp [hdvd, hne half (Nat.dvd_refl half), hne 0 (Nat.dvd_zero half)]

/-! ### The frame's slots -/

theorem frameSlots_congr {s t : State} (hp : t.params = s.params) (hx : t.pix = s.pix) (m : Nat) :
    frameSlots t m = frameSlots s m := by
  simp only [frameSlots, funext (slotSymbols_congr hp hx)]

/-- A frame cut to what its first `m` slots hold does not change when more slots are added. -/
theorem take_frameSlots_add (s : State) {d m : Nat} (k : Nat) (h : d ≤ 24 * m) :
    (frameSlots s (m + k)).take d = (frameSlots s m).take d := by
  induction k with
  | zero => rfl
  | succ k ih =>
    rw [← Nat.add_assoc, frameSlots_succ, List.take_append_of_le_length (by rw [frameSlots_length]; omega), ih]

/-! ### What the frame says of a streaming request -/

namespace FrameInv

variable {s : State}

theorem half_pos (h : FrameInv s) : 0 < s.params.half := params_half_pos h.inv.params_ok

/-- The cursor after `refills s` refills (R96). -/
theorem cursor_eq (h : FrameInv s) : s.cursor = (refills s + 2) * s.params.b := by
  obtain ⟨hdvd, hlo, -⟩ := h.inv.cursor_bound h.live
  have h2 : 2 ≤ s.cursor / s.params.b := (Nat.le_div_iff_mul_le h.inv.params_ok.b_pos).2 hlo
  rw [refills, Nat.sub_add_cancel h2, Nat.div_mul_cancel hdvd]

/-- The slot being delivered belongs to one of the two halves encoded last (R99, R110). -/
theorem current_slot (h : FrameInv s) (hst : s.st = .streaming) :
    delivered s / 24 < s.cursor ∧ s.cursor ≤ delivered s / 24 + 2 * s.params.b := by
  obtain ⟨hlo, hhi⟩ := h.pace hst
  have hb := h.inv.params_ok.b_pos
  rw [Params.half, ← Nat.div_div_eq_div_mul] at hlo hhi
  have h1 := (Nat.div_lt_iff_lt_mul hb).1 (Nat.lt_succ_of_le hhi)
  have h2 := (Nat.le_div_iff_mul_le hb).1 hlo
  rw [h.cursor_eq]
  refine ⟨h1, ?_⟩
  rw [Nat.add_mul]
  exact Nat.add_le_add_right h2 _

theorem delivered_lt (h : FrameInv s) (hst : s.st = .streaming) : delivered s < 24 * s.cursor := by
  obtain ⟨hlt, -⟩ := h.current_slot hst
  omega

/-- The next symbol that STREAM reads is the next one of the frame (R99). -/
theorem next_symbol (h : FrameInv s) (hst : s.st = .streaming) :
    (frameSlots s s.cursor)[delivered s]? = some (bufRead s s.rd) := by
  obtain ⟨hlt, hle⟩ := h.current_slot hst
  have hrd : s.rd = 24 * (delivered s / 24 % (2 * s.params.b)) + delivered s % 24 := by
    rw [h.place hst, Params.buflen, show 48 * s.params.b = 24 * (2 * s.params.b) by omega, Nat.mod_mul, Nat.add_comm]
  rw [getElem?_frameSlots s (h.delivered_lt hst), hrd]
  exact (h.resident hst _ hlt hle _ (Nat.mod_lt _ (by decide))).symm

/-- A signal is pending exactly when one more half has been left than refilled, and the half is its own (R101). -/
theorem pending_iff (h : FrameInv s) (hst : s.st = .streaming) (sig : Sig) :
    pending sig s = true ↔
      delivered s / s.params.half = refills s + 1 ∧ refills s % 2 = (sigHalf sig).toNat := by
  cases sig with
  | ht => exact h.half_flag hst
  | tc => exact h.full_flag hst

/-- Serviced, a signal leaves no flag set: the other signal is not pending (R101, R110). -/
theorem acknowledge_eq (h : FrameInv s) {sig : Sig} (hp : pending sig s = true) :
    acknowledge sig (encodeHalf (sigHalf sig) s) = clearFlags (encodeHalf (sigHalf sig) s) := by
  have hone : ¬ (s.pendHalf = true ∧ s.pendFull = true) := fun ⟨hh, hf⟩ =>
    Bool.false_ne_true (h.on_time.symm.trans (h.inv.both_pending hh hf))
  cases sig with
  | ht =>
    have hf : (encodeHalf .h0 s).pendFull = false := by simpa [show s.pendHalf = true from hp] using hone
    simp only [acknowledge, clearFlags, sigHalf, ← hf]
  | tc =>
    have hh : (encodeHalf .h1 s).pendHalf = false := by simpa [show s.pendFull = true from hp] using hone
    simp only [acknowledge, clearFlags, sigHalf, ← hh]

/-! ### The frame along a step -/

theorem forget_choice (h : FrameInv s) : FrameInv (dropChoice s) := by
  obtain ⟨sched, fresh, e⟩ := dropChoice_eq s
  rw [e]
  exact { h with inv := inv_inputs h.inv s.cmds sched fresh }

/-- The termination branch ends the request at `K` halves left, whole cursor and counts those of R97 and R98. -/
theorem terminates (h : FrameInv s) {sig : Sig} (hp : pending sig s = true) (hc : s.params.threshold ≤ s.cursor) :
    FrameInv (terminate s) := by
  have hst := h.inv.streaming_of_pending hp
  obtain ⟨hq, -⟩ := (h.pending_iff hst sig).1 hp
  obtain ⟨-, -, hle⟩ := h.inv.cursor_bound (.inl hst)
  obtain ⟨-, hK, -⟩ := signals_spec h.inv.params_ok
  have hsig : s.params.signals = refills s + 1 := by
    rw [h.cursor_eq] at hc hle
    have h1 : s.params.signals < refills s + 2 := Nat.lt_of_mul_lt_mul_right (Nat.lt_of_lt_of_le hK hc)
    have h2 : refills s + 2 ≤ s.params.signals + 1 := Nat.le_of_mul_le_mul_right hle h.inv.params_ok.b_pos
    omega
  exact { h with
    inv := inv_terminate h.inv hst hc
    live := .inr rfl
    place := by simp
    no_disable := by simp
    resident := by simp
    pace := by simp
    half_flag := by simp
    full_flag := by simp
    ended := fun _ => ⟨by simp [h.no_disable hst], h.cursor_eq.trans (by rw [terminate_params, hsig]), hq.trans hsig.symm⟩ }

/-- After a refill the buffer holds the last two halves encoded: the new one, and the younger of the two before (R99). -/
theorem resident_encodeHalf (h : FrameInv s) (hst : s.st = .streaming) {half : Half} (hhalf : refills s % 2 = half.toNat)
    {i q : Nat} (hlt : i < s.cursor + s.params.b) (hle : s.cursor + s.params.b ≤ i + 2 * s.params.b) (hq : q < 24) :
    some (bufRead (encodeHalf half s) (24 * (i % (2 * s.params.b)) + q)) = (slotSymbols s i)[q]? := by
  obtain ⟨hnew, hold⟩ := halfEncoded_encodeHalf half s
  have hc := h.cursor_eq
  rcases Nat.lt_or_ge i s.cursor with hi | hi
  · have hlow : (refills s + 1) * s.params.b ≤ i := by
      rw [Nat.add_mul] at hc ⊢
      omega
    obtain ⟨k, rfl⟩ := Nat.exists_eq_add_of_le hlow
    have hk : k < s.params.b := by
      rw [hc, Nat.add_mul, Nat.add_mul] at hi
      omega
    rw [hold _ (ring_slot_outside hhalf hk hq)]
    exact h.resident hst _ hi (by omega) q hq
  · obtain ⟨k, rfl⟩ := Nat.exists_eq_add_of_le hi
    have hk : k < s.params.b := by omega
    rw [hc, ring_slotAddr hhalf hk, ← hc]
    exact hnew k hk q hq

/-- A refill keeps the frame: one half more is encoded, and no flag is pending (R96, R99, R101). -/
theorem refills_half (h : FrameInv s) {sig : Sig} (hp : pending sig s = true) (hc : s.cursor < s.params.threshold) :
    FrameInv (clearFlags (encodeHalf (sigHalf sig) s)) := by
  have hst := h.inv.streaming_of_pending hp
  obtain ⟨hq, hhalf⟩ := (h.pending_iff hst sig).1 hp
  have hinv : (clearFlags (encodeHalf (sigHalf sig) s)).Inv := by
    rw [← h.acknowledge_eq hp]
    exact inv_acknowledge (inv_encodeHalf_streaming h.inv hst hc _) sig
  have hcur : 2 * s.params.b ≤ s.cursor := (h.inv.cursor_bound h.live).2.1
  have hdel : delivered (clearFlags (encodeHalf (sigHalf sig) s)) = delivered s := by simp [delivered]
  have hdiv : (s.cursor + s.params.b) / s.params.b = s.cursor / s.params.b + 1 :=
    Nat.add_div_right _ h.inv.params_ok.b_pos
  have href : refills (clearFlags (encodeHalf (sigHalf sig) s)) = refills s + 1 := by
    have h2 : 2 ≤ s.cursor / s.params.b := (Nat.le_div_iff_mul_le h.inv.params_ok.b_pos).2 hcur
    simp only [refills, clearFlags_cursor, clearFlags_params, encodeHalf_cursor, encodeHalf_params, hdiv]
    omega
  have hsym := slotSymbols_congr (s := s) (t := clearFlags (encodeHalf (sigHalf sig) s)) (by simp) (by simp)
  have hfr := frameSlots_congr (s := s) (t := clearFlags (encodeHalf (sigHalf sig) s)) (by simp) (by simp)
  exact {
    inv := hinv
    silent := by simpa [State.HostSilent] using h.silent
    on_time := by simpa using h.on_time
    live := by simp [hst]
    content := by
      rw [hdel, hfr]
      simpa [take_frameSlots_add s _ (Nat.le_of_lt (h.delivered_lt hst))] using h.content
    enc_calls := by simp [hdiv, h.enc_calls]
    place := by simpa [hdel] using h.place
    no_disable := by simpa using h.no_disable
    resident := fun _ i hlt hle q hqq => by
      rw [hsym]
      simp only [clearFlags_cursor, clearFlags_params, encodeHalf_cursor, encodeHalf_params] at hlt hle ⊢
      exact h.resident_encodeHalf hst hhalf hlt hle hqq
    pace := fun _ => by
      simp only [hdel, href, clearFlags_params, encodeHalf_params, hq]
      omega
    half_flag := fun _ => by simp [hdel, href, hq]
    full_flag := fun _ => by simp [hdel, href, hq]
    ended := by simp [hst] }

/-- An IRQ step keeps the frame, terminating or not (R96, R97). -/
theorem handles (h : FrameInv s) {sig : Sig} (hp : pending sig s = true) : FrameInv (handler sig s) := by
  rcases handler_cases sig s with ⟨hc, e⟩ | ⟨hc, e⟩
  · rw [e]
    exact h.terminates hp hc
  · rw [e, h.acknowledge_eq hp]
    exact h.refills_half hp hc

/-- A delivery that misses no deadline keeps the frame: the symbol is the frame's next one, and a half is left only when
the one before it has been refilled (R99, R101, R110). -/
theorem delivers (h : FrameInv s) (hx : s.xferEn = true) (hov : (deliver s).overrun = false) : FrameInv (deliver s) := by
  have hst : s.st = .streaming := h.inv.enabled_iff_streaming.1 hx
  have hdel : delivered (deliver s) = delivered s + 1 := by
    have := h.inv.mark_in_out
    simp only [delivered, deliver_out, deliver_outMark, List.length_append, List.length_singleton]
    omega
  have hrd : (s.rd + 1) % s.params.buflen = (delivered s + 1) % (2 * s.params.half) := by
    rw [h.place hst, Nat.mod_add_mod, buflen_eq]
  have hsym := slotSymbols_congr (s := s) (t := deliver s) rfl rfl
  have hfr := frameSlots_congr (s := s) (t := deliver s) rfl rfl
  obtain ⟨hraiseH, hraiseF⟩ := succ_mod_ring (d := delivered s) h.half_pos
  have hq : (delivered s + 1) / s.params.half =
      delivered s / s.params.half + if s.params.half ∣ delivered s + 1 then 1 else 0 := Nat.succ_div
  have href : refills (deliver s) = refills s := rfl
  have hone := (deliver_on_time hov).2
  have hh := h.half_flag hst
  have hf := h.full_flag hst
  have hpace := h.pace hst
  rw [deliver_pendHalf_iff, deliver_pendFull_iff, hrd, hraiseH, hraiseF, hh, hf] at hone
  exact { h with
    inv := inv_deliver h.inv hx
    on_time := hov
    content := by
      have hsplit : s.outMark ≤ s.out.length := h.inv.mark_in_out
      rw [hdel, hfr, deliver_cursor, List.take_add_one, h.next_symbol hst, ← h.content, deliver_out, deliver_outMark,
        List.drop_append_of_le_length hsplit]
      rfl
    place := fun _ => by rw [deliver_rd, hrd, hdel, deliver_params, buflen_eq]
    resident := fun _ i hlt hle q hqq => by
      rw [hsym]
      exact h.resident hst i hlt hle q hqq
    pace := fun _ => by
      rw [hdel, deliver_params, hq, href]
      split <;> omega
    half_flag := fun _ => by
      rw [deliver_pendHalf_iff, hrd, hraiseH, hh, hdel, deliver_params, hq, href]
      split <;> omega
    full_flag := fun _ => by
      rw [deliver_pendFull_iff, hrd, hraiseF, hf, hdel, deliver_params, hq, href]
      split <;> omega
    ended := by simp [hst] }

/-- With the HOST silent no step is its own. -/
theorem host_disabled (h : FrameInv s) : turnEnabled s .host = false := by
  obtain ⟨hc, hw⟩ := h.silent
  simp [turnEnabled, hostHasWork, hw, hc]

end FrameInv

/-- Settles O54: the HOST being silent, a step waits, services a signal or delivers a symbol, and each keeps the frame. -/
theorem stepKeepsTheFrame : Obligations.StepKeepsTheFrame := by
  intro s t hs h hov
  obtain ⟨-, ⟨-, rfl⟩ | ⟨tn, u, -, hen, hu, rfl⟩⟩ := step_next h
  · exact hs
  · refine FrameInv.forget_choice ?_
    rw [dropChoice_overrun] at hov
    cases tn with
    | host => cases hs.host_disabled.symm.trans hen
    | irqHt =>
      obtain ⟨hp, rfl⟩ := irqStep_cases (sig := .ht) hu
      exact hs.handles hp
    | irqTc =>
      obtain ⟨hp, rfl⟩ := irqStep_cases (sig := .tc) hu
      exact hs.handles hp
    | stream =>
      obtain ⟨hx, -, rfl⟩ := execStream_next hu
      exact hs.delivers hx hov

end Sys2Proof.Machine
end

section
/-! What a step writes of the scheduler state (R86) and of the configuration (R20 to R22). -/

namespace Sys2Proof.Machine

/-! ### The scheduler state -/

/-- An IRQ step moves the scheduler from STREAMING to DONE at the threshold, and leaves it alone below it (R86, R92). -/
theorem irqStep_scheduler {sig : Sig} {s t : State} (hs : s.Inv) (h : irqStep sig s = .next t) :
    t.st = s.st ∨
      (s.st = .streaming ∧ t.st = .done ∧ s.params.threshold ≤ s.cursor ∧ t.xferEn = false ∧ anyPending t = false) := by
  obtain ⟨hp, rfl⟩ := irqStep_cases h
  rcases handler_cases sig s with ⟨hc, e⟩ | ⟨-, e⟩
  · rw [e]
    exact .inr ⟨hs.streaming_of_pending hp, rfl, hc, rfl, rfl⟩
  · rw [e]
    exact .inl (by cases sig <;> simp)

/-- The HOST's turn moves the scheduler by D1 or D5 of `DISPLAY` alone: `INIT` leaves it IDLE as it is (R86, R115). -/
theorem hostTurn_scheduler {s t : State} (hs : s.Inv) (h : hostTurn s = .next t) :
    t.st = s.st ∨
      (s.st ≠ .armed ∧ t.st = .armed ∧ s.work = .idle ∧ s.initState = .ready ∧ t.xferEn = false ∧
        ∃ w rest, s.cmds = w :: rest ∧ decodeCommand w = .ok .display) ∨
      (s.st = .armed ∧ t.st = .streaming ∧ s.work = .display .d5 ∧ t.rd = 0 ∧ t.xferEn = true) := by
  rcases hostTurn_next h with ⟨-, -, rfl⟩ | ⟨w, rest, i, hw, hc, hd, hi⟩ | ⟨ws, -, rfl⟩ | ⟨-, rfl⟩ | ⟨-, rfl⟩ |
    ⟨-, rfl⟩ | ⟨hw, rfl⟩
  · exact .inl rfl
  · obtain ⟨-, ⟨_, _, _, _, -, hun, rfl | rfl⟩ | ⟨-, -, rfl⟩ | ⟨rfl, hready, rfl⟩⟩ := hostCommand_next hd hi
    · exact .inl (hs.not_ready_idle (by simp [show s.initState = .uninit from hun])).1.symm
    · exact .inl rfl
    · exact .inl (by rw [startWrites_frame])
    · exact .inr (.inl ⟨hs.not_armed (by simp [hw]), rfl, hw, hready, rfl, w, rest, hc, hd⟩)
  · exact .inl (by rw [writeStep_frame])
  · exact .inl rfl
  · exact .inl (encodeHalf_st _ s)
  · exact .inl (encodeHalf_st _ s)
  · exact .inr (.inr ⟨hs.armed_of_display hw, rfl, hw, rfl, rfl⟩)

/-- Settles O40: D1 and D5 are the HOST's, a termination an IRQ step's; STREAM leaves the scheduler alone. -/
theorem schedulerTransitions : Obligations.SchedulerTransitions := by
  intro s t hs h
  obtain ⟨-, ⟨-, rfl⟩ | ⟨tn, u, htn, hen, hu, rfl⟩⟩ := step_next h
  · exact .inl rfl
  · simp only [dropChoice_st, dropChoice_xferEn, dropChoice_rd, anyPending, dropChoice_pendHalf, dropChoice_pendFull]
    cases tn with
    | host =>
      obtain ⟨hqh, hqf⟩ := not_pending_of_host_enabled hen
      rcases hostTurn_scheduler hs hu with e | ⟨hna, ha, hw, hi, hx, hc⟩ | ⟨ha, hst, hw, hrd, hx⟩
      · exact .inl e
      · exact .inr (.inl ⟨hna, ha, htn, hw, hi, by simp [hqh, hqf], hx, hc⟩)
      · exact .inr (.inr (.inl ⟨ha, hst, htn, hw, hrd, hx⟩))
    | irqHt =>
      rcases irqStep_scheduler (sig := .ht) hs hu with e | ⟨hst, hdone, hc, hx, hq⟩
      · exact .inl e
      · exact .inr (.inr (.inr ⟨hst, hdone, .inl htn, hc, hx, hq⟩))
    | irqTc =>
      rcases irqStep_scheduler (sig := .tc) hs hu with e | ⟨hst, hdone, hc, hx, hq⟩
      · exact .inl e
      · exact .inr (.inr (.inr ⟨hst, hdone, .inr htn, hc, hx, hq⟩))
    | stream =>
      obtain ⟨-, -, rfl⟩ := execStream_next hu
      exact .inl rfl

/-! ### The configuration -/

/-- `t` has the configuration registers, `status` and `init_state` of `s`. -/
def SameConfig (s t : State) : Prop := t.cfg = s.cfg ∧ t.status = s.status ∧ t.initState = s.initState

theorem irqStep_sameConfig {sig : Sig} {s t : State} (h : irqStep sig s = .next t) : SameConfig s t := by
  obtain ⟨-, rfl⟩ := irqStep_cases h
  rcases handler_cases sig s with ⟨-, e⟩ | ⟨-, e⟩
  · rw [e]
    exact ⟨rfl, rfl, rfl⟩
  · rw [e]
    cases sig <;> simp [SameConfig]

/-- The HOST's turn writes the configuration by an `INIT` in UNINIT alone (R115, R118). -/
theorem hostTurn_config {s t : State} (h : hostTurn s = .next t) :
    SameConfig s t ∨ (s.work = .idle ∧ s.initState = .uninit ∧ ∃ w rest dmaCh timer outCh clk,
      s.cmds = w :: rest ∧ decodeCommand w = .ok (.init dmaCh timer outCh clk)) := by
  rcases hostTurn_next h with ⟨-, -, rfl⟩ | ⟨w, rest, i, hw, hc, hd, hi⟩ | ⟨ws, -, rfl⟩ | ⟨-, rfl⟩ | ⟨-, rfl⟩ |
    ⟨-, rfl⟩ | ⟨-, rfl⟩
  · exact .inl ⟨rfl, rfl, rfl⟩
  · obtain ⟨-, ⟨dmaCh, timer, outCh, clk, rfl, hun, -⟩ | ⟨-, -, rfl⟩ | ⟨-, -, rfl⟩⟩ := hostCommand_next hd hi
    · exact .inr ⟨hw, hun, w, rest, dmaCh, timer, outCh, clk, hc, hd⟩
    · exact .inl (by rw [startWrites_frame]; exact ⟨rfl, rfl, rfl⟩)
    · exact .inl ⟨rfl, rfl, rfl⟩
  · exact .inl (by rw [writeStep_frame]; exact ⟨rfl, rfl, rfl⟩)
  · exact .inl ⟨rfl, rfl, rfl⟩
  · exact .inl ⟨encodeHalf_cfg _ s, encodeHalf_status _ s, encodeHalf_initState _ s⟩
  · exact .inl ⟨encodeHalf_cfg _ s, encodeHalf_status _ s, encodeHalf_initState _ s⟩
  · exact .inl ⟨rfl, rfl, rfl⟩

/-- Settles O41: of the turns only the HOST's writes the configuration, and of the HOST's micro-steps only an `INIT`'s. -/
theorem onlyInitConfigures : Obligations.OnlyInitConfigures := by
  intro s t h
  obtain ⟨-, ⟨-, rfl⟩ | ⟨tn, u, htn, -, hu, rfl⟩⟩ := step_next h
  · exact .inl ⟨rfl, rfl, rfl⟩
  · simp only [dropChoice_cfg, dropChoice_status, dropChoice_initState]
    cases tn with
    | host =>
      rcases hostTurn_config hu with e | hinit
      · exact .inl e
      · exact .inr ⟨htn, hinit⟩
    | irqHt => exact .inl (irqStep_sameConfig (sig := .ht) hu)
    | irqTc => exact .inl (irqStep_sameConfig (sig := .tc) hu)
    | stream =>
      obtain ⟨-, -, rfl⟩ := execStream_next hu
      exact .inl ⟨rfl, rfl, rfl⟩

end Sys2Proof.Machine
end

section
/-! Two signals pending at once (R132): whichever IRQ step is first, its half gets the earlier slots. -/

namespace Sys2Proof.Machine

/-- The turn of a signal's IRQ step (R128). -/
def Sig.turn : Sig → Turn
  | .ht => .irqHt
  | .tc => .irqTc

/-- The other signal. -/
def Sig.other : Sig → Sig
  | .ht => .tc
  | .tc => .ht

theorem runTurn_turn (sig : Sig) (s : State) : runTurn sig.turn s = irqStep sig s := by
  cases sig <;> rfl

theorem turnEnabled_turn (sig : Sig) (s : State) : turnEnabled s sig.turn = pending sig s := by
  cases sig <;> rfl

/-- The schedule's choice is taken when its turn is enabled (R128). -/
theorem nextTurn_of_sched {s : State} {tn : Turn} {k : Nat} {rest : List Choice} (hs : s.sched = ⟨tn, k⟩ :: rest)
    (hen : turnEnabled s tn = true) : nextTurn s = some tn := by
  have hc : nextChoice s = ⟨tn, k⟩ := by simp [nextChoice, hs]
  rw [nextTurn, hc, if_pos hen]

/-- From `s` to `t` one signal has been serviced by a refill: its half is encoded, its flag alone is cleared, and the
machine still runs. -/
structure Refilled (sig : Sig) (s t : State) : Prop where
  running : t.Running
  params : t.params = s.params
  pix : t.pix = s.pix
  cursor : t.cursor = s.cursor + s.params.b
  serviced : pending sig t = false
  other_kept : pending sig.other t = pending sig.other s
  encoded : HalfEncoded (sigHalf sig) s t

theorem refill_refilled (sig : Sig) {s : State} (hr : s.Running) : Refilled sig s (dropChoice (refill sig s)) := by
  have hbuf : (dropChoice (refill sig s)).buf = (encodeHalf (sigHalf sig) s).buf := by cases sig <;> simp [refill]
  have hread : ∀ j, bufRead (dropChoice (refill sig s)) j = bufRead (encodeHalf (sigHalf sig) s) j := fun j => by
    rw [bufRead, hbuf, bufRead]
  obtain ⟨hnew, hold⟩ := halfEncoded_encodeHalf (sigHalf sig) s
  exact {
    running := by cases sig <;> simpa [State.Running, refill] using hr
    params := by simp [refill]
    pix := by cases sig <;> simp [refill]
    cursor := by cases sig <;> simp [refill]
    serviced := by cases sig <;> simp [refill, pending]
    other_kept := by cases sig <;> simp [refill, pending, Sig.other]
    encoded := ⟨fun k hk q hq => by rw [hread]; exact hnew k hk q hq, fun j hj => by rw [hread]; exact hold j hj⟩ }

/-- Below the threshold a signal that is pending and scheduled next is serviced by a refill (R89, R128). -/
theorem step_refills {sig : Sig} {s : State} {k : Nat} {rest : List Choice} (hr : s.Running)
    (hs : s.sched = ⟨sig.turn, k⟩ :: rest) (hp : pending sig s = true) (hc : s.cursor < s.params.threshold) :
    ∃ t, step s = .next t ∧ t.sched = rest ∧ Refilled sig s t := by
  have htn : nextTurn s = some sig.turn := nextTurn_of_sched hs (by rwa [turnEnabled_turn])
  refine ⟨dropChoice (refill sig s), ?_, ?_, refill_refilled sig hr⟩
  · rw [step_of_turn hr htn, runTurn_turn, irqStep, if_pos hp, handler, if_neg (Nat.not_le.2 hc), onNext_next]
  · cases sig <;> simp [refill, hs]

/-- The slots of one signal's half lie outside the other's (R38, R40). -/
theorem slotAddr_outside_other (p : Params) (sig : Sig) {i q : Nat} (hi : i < p.b) (hq : q < 24) :
    slotAddr p (sigHalf sig) i + q < halfBase p (sigHalf sig.other) ∨
      halfBase p (sigHalf sig.other) + p.half ≤ slotAddr p (sigHalf sig) i + q := by
  cases sig <;> simp only [sigHalf, Sig.other, slotAddr, halfBase, Half.toNat, Params.half] <;> omega

/-- With both flags set and room for two halves, the signal scheduled first gets the earlier slots (R132). -/
theorem run_both_refills (first : Sig) {s : State} {k k' : Nat} {rest : List Choice} (hr : s.Running)
    (hs : s.sched = ⟨first.turn, k⟩ :: ⟨first.other.turn, k'⟩ :: rest) (hp : pending first s = true)
    (hp' : pending first.other s = true) (hc : s.cursor + s.params.b < s.params.threshold) :
    ∃ t : State, Host.Core.run Sys2Proof.core 2 s = .next t ∧ pending first t = false ∧
      pending first.other t = false ∧ t.cursor = s.cursor + 2 * s.params.b ∧
      ∀ i, i < s.params.b → ∀ q, q < 24 →
        some (bufRead t (slotAddr s.params (sigHalf first) i + q)) = (slotSymbols s (s.cursor + i))[q]? ∧
        some (bufRead t (slotAddr s.params (sigHalf first.other) i + q)) =
          (slotSymbols s (s.cursor + s.params.b + i))[q]? := by
  obtain ⟨u, hu, hus, h1⟩ := step_refills hr hs hp (by omega)
  obtain ⟨t, ht, -, h2⟩ := step_refills h1.running hus (h1.other_kept.trans hp') (by rw [h1.cursor, h1.params]; exact hc)
  obtain ⟨hnew1, -⟩ := h1.encoded
  obtain ⟨hnew2, hold2⟩ := h2.encoded
  have hback : first.other.other = first := by cases first <;> rfl
  refine ⟨t, ?_, ?_, h2.serviced, ?_, fun i hi q hq => ⟨?_, ?_⟩⟩
  · have hu' : Sys2Proof.core.step s = .next u := hu
    have ht' : Sys2Proof.core.step u = .next t := ht
    simp only [Host.Core.run, hu', ht']
  · have := h2.other_kept
    rw [hback, h1.serviced] at this
    exact this
  · rw [h2.cursor, h1.cursor, h1.params]
    omega
  · rw [hold2 _ (h1.params.symm ▸ slotAddr_outside_other s.params first hi hq)]
    exact hnew1 i hi q hq
  · have := hnew2 i (h1.params.symm ▸ hi) q hq
    rwa [slotSymbols_congr h1.params h1.pix, h1.params, h1.cursor] at this

/-- Settles O29: both orders are runs of two refills. -/
theorem eitherPendingSignalMayBeFirst : Obligations.EitherPendingSignalMayBeFirst := by
  intro s rest k k' hr hh hf hc
  constructor
  · obtain ⟨t, ht, hq, hq', hcur, hbuf⟩ := run_both_refills .ht
      (s := { s with sched := ⟨.irqHt, k⟩ :: ⟨.irqTc, k'⟩ :: rest }) hr rfl hh hf hc
    exact ⟨t, ht, Bool.or_eq_false_iff.2 ⟨hq, hq'⟩, hcur, hbuf⟩
  · obtain ⟨t, ht, hq, hq', hcur, hbuf⟩ := run_both_refills .tc
      (s := { s with sched := ⟨.irqTc, k⟩ :: ⟨.irqHt, k'⟩ :: rest }) hr rfl hf hh hc
    exact ⟨t, ht, Bool.or_eq_false_iff.2 ⟨hq', hq⟩, hcur, hbuf⟩

end Sys2Proof.Machine
end

section
/-! The ghost state (R29): no operation reads it. What an operation does to a state without ghost state is what it does to
the state itself, the ghost state of the answer apart. -/

namespace Sys2Proof.Machine

@[simp] theorem eraseGhost_params (s : State) : (eraseGhost s).params = s.params := rfl
@[simp] theorem eraseGhost_initState (s : State) : (eraseGhost s).initState = s.initState := rfl
@[simp] theorem eraseGhost_cmds (s : State) : (eraseGhost s).cmds = s.cmds := rfl
@[simp] theorem eraseGhost_work (s : State) : (eraseGhost s).work = s.work := rfl

/-- What `f` answers does not depend on the ghost state, the ghost state of the answer apart (R29). -/
def GhostBlind (f : State → Host.Outcome State Fault Refusal) : Prop :=
  ∀ s, onNext eraseGhost (f (eraseGhost s)) = onNext eraseGhost (f s)

/-! ### The shared operations -/

/-- Two choices by the same test agree under `f` when their branches do. -/
theorem ite_same_test {α β : Type} (f : α → β) {c : Prop} [Decidable c] {a a' b b' : α} (ha : f a = f a')
    (hb : f b = f b') : f (if c then a else b) = f (if c then a' else b') := by
  split
  · exact ha
  · exact hb

theorem encIterations_eraseGhost (h : Half) (k : Nat) (s : State) :
    encIterations h k (eraseGhost s) = eraseGhost (encIterations h k s) := by
  induction k with
  | zero => rfl
  | succ k ih =>
    rw [encIterations, ih]
    rfl

theorem eraseGhost_encodeHalf (h : Half) (s : State) :
    eraseGhost (encodeHalf h (eraseGhost s)) = eraseGhost (encodeHalf h s) := by
  simp only [encodeHalf, encIterations_eraseGhost, eraseGhost_params]
  rfl

theorem eraseGhost_acknowledge (sig : Sig) (s : State) :
    eraseGhost (acknowledge sig s) = acknowledge sig (eraseGhost s) := by
  cases sig <;> rfl

theorem eraseGhost_handler (sig : Sig) (s : State) :
    eraseGhost (handler sig (eraseGhost s)) = eraseGhost (handler sig s) := by
  refine ite_same_test eraseGhost rfl ?_
  rw [refill, refill, eraseGhost_acknowledge, eraseGhost_acknowledge, eraseGhost_encodeHalf]

theorem eraseGhost_writeStep (pick : Nat) (ws : List PixWrite) (s : State) :
    eraseGhost (writeStep pick ws (eraseGhost s)) = eraseGhost (writeStep pick ws s) := by
  unfold writeStep
  split <;> rfl

theorem eraseGhost_startWrites (ws : List PixWrite) (s : State) :
    eraseGhost (startWrites ws (eraseGhost s)) = eraseGhost (startWrites ws s) :=
  eraseGhost_writeStep _ ws s

theorem eraseGhost_initLoad (cfg : CfgRegs) (s : State) :
    eraseGhost (initLoad cfg (eraseGhost s)) = eraseGhost (initLoad cfg s) :=
  ite_same_test eraseGhost (ite_same_test eraseGhost rfl rfl) rfl

theorem eraseGhost_dropChoice (s : State) : eraseGhost (dropChoice s) = dropChoice (eraseGhost s) := by
  obtain ⟨⟩ := s
  rename_i sched fresh
  cases sched <;> rfl

/-! ### The operations of the table -/

/-- Whether the HOST is busy is no ghost state. -/
theorem whenHostFree_eraseGhost {s : State} {o o' : Host.Outcome State Fault Refusal}
    (h : onNext eraseGhost o' = onNext eraseGhost o) :
    onNext eraseGhost (whenHostFree (eraseGhost s) o') = onNext eraseGhost (whenHostFree s o) := by
  simp only [whenHostFree, eraseGhost_work]
  split
  · exact h
  · rfl
  · rfl

theorem ghostBlind_irqStep (sig : Sig) : GhostBlind (irqStep sig) := fun s => by
  have hp : pending sig (eraseGhost s) = pending sig s := by cases sig <;> rfl
  rw [irqStep, irqStep, hp]
  exact ite_same_test (onNext eraseGhost) (congrArg Host.Outcome.next (eraseGhost_handler sig s)) rfl

theorem ghostBlind_exec (i : Instr) : GhostBlind (exec i) := fun s => by
  cases i with
  | init dmaCh timer outCh clk =>
    refine whenHostFree_eraseGhost ?_
    simp only [eraseGhost_initState]
    split
    · exact congrArg Host.Outcome.next (eraseGhost_initLoad _ s)
    · rfl
    · rfl
  | set index r g b =>
    exact whenHostFree_eraseGhost
      (ite_same_test (onNext eraseGhost) rfl (congrArg Host.Outcome.next (eraseGhost_startWrites _ s)))
  | clear index =>
    exact whenHostFree_eraseGhost
      (ite_same_test (onNext eraseGhost) rfl (congrArg Host.Outcome.next (eraseGhost_startWrites _ s)))
  | clearAll =>
    exact whenHostFree_eraseGhost (congrArg Host.Outcome.next (eraseGhost_startWrites _ s))
  | display =>
    refine whenHostFree_eraseGhost ?_
    simp only [eraseGhost_initState]
    split <;> rfl
  | irqHt => exact ghostBlind_irqStep .ht s
  | irqTc => exact ghostBlind_irqStep .tc s
  | stream =>
    exact ite_same_test (onNext eraseGhost) (ite_same_test (onNext eraseGhost) rfl rfl) rfl
  | encodeHalf h => exact congrArg Host.Outcome.next (eraseGhost_encodeHalf h s)

/-! ### Turns and steps -/

theorem ghostBlind_hostMicro : GhostBlind (hostMicroWith fun h => exec (.encodeHalf h)) := fun s => by
  simp only [hostMicroWith, eraseGhost_work]
  split
  · rfl
  · exact congrArg Host.Outcome.next (eraseGhost_writeStep _ _ s)
  · rfl
  · exact congrArg (fun u => Host.Outcome.next { u with work := .display .d4 }) (eraseGhost_encodeHalf .h0 s)
  · exact congrArg (fun u => Host.Outcome.next { u with work := .display .d5 }) (eraseGhost_encodeHalf .h1 s)
  · rfl

theorem ghostBlind_hostTurn : GhostBlind hostTurn := fun s => by
  simp only [hostTurn, eraseGhost_work, eraseGhost_cmds]
  split
  · split
    · rfl
    · split
      · exact ghostBlind_exec _ { s with cmds := _ }
      · rfl
  · exact ghostBlind_hostMicro s
  · exact ghostBlind_hostMicro s

theorem ghostBlind_runTurn (tn : Turn) : GhostBlind (runTurn tn) := by
  cases tn with
  | host => exact ghostBlind_hostTurn
  | irqHt => exact ghostBlind_irqStep .ht
  | irqTc => exact ghostBlind_irqStep .tc
  | stream => exact ghostBlind_exec .stream

/-- An operation's answer can be changed afterwards in a way that speaks of no ghost state. -/
theorem GhostBlind.onNext {f : State → Host.Outcome State Fault Refusal} (hf : GhostBlind f) {g : State → State}
    (hg : ∀ s, eraseGhost (g s) = g (eraseGhost s)) : GhostBlind fun s => Machine.onNext g (f s) := by
  have hcomm : ∀ o, Machine.onNext eraseGhost (Machine.onNext g o) = Machine.onNext g (Machine.onNext eraseGhost o) := fun o => by
    cases o with
    | next s => simp only [onNext_next, hg]
    | fault r => rfl
    | refused r => rfl
  exact fun s => by simp only [hcomm, hf s]

/-- Settles O51: neither the record of a stop nor the choice of the turn is ghost state, and no turn reads any. -/
theorem ghostStateIsNotRead : Obligations.GhostStateIsNotRead := by
  intro s
  have hstop : stopped (eraseGhost s) = stopped s := rfl
  have hturn : nextTurn (eraseGhost s) = nextTurn s := rfl
  simp only [step, hstop, hturn]
  split
  · rfl
  · split
    · rfl
    · exact (ghostBlind_runTurn _).onNext eraseGhost_dropChoice s

end Sys2Proof.Machine
end

section
/-! The record of a stop (R30, R121, R122), and the reset values (R32). -/

namespace Sys2Proof.Machine

/-- A recorded fault is what every later step answers (R121, R128). -/
theorem step_of_fault {s : State} {f : Fault} (h : s.fault = some f) : step s = .fault f := by
  simp only [step, stopped, h]

/-- A state marked as refused, with no fault recorded, only refuses (R122). -/
theorem step_of_refused {s : State} (hf : s.fault = none) (hr : s.refused = true) :
    step s = .refused .alreadyRefused := by
  simp only [step, stopped, hf, hr, if_true]

/-- The first fault is the one recorded (R121). -/
theorem recordOutcome_fault_of_none {s : State} (f : Fault) (h : s.fault = none) :
    recordOutcome s (.fault f) = { s with fault := some f } := by
  rw [recordOutcome, h, Option.none_or]

/-- A later fault leaves the first one's record (R121). -/
theorem recordOutcome_fault_of_some {s : State} {f : Fault} (f' : Fault) (h : s.fault = some f) :
    recordOutcome s (.fault f') = s := by
  rw [recordOutcome, h, Option.some_or, ← h]

/-- Settles O44: each record is read off `recordOutcome`, and the step looks at the record first. -/
theorem stopsAreRecorded : Obligations.StopsAreRecorded := fun s =>
  ⟨fun f h => ⟨recordOutcome_fault_of_none f h, step_of_fault (by rw [recordOutcome_fault_of_none f h])⟩,
    fun _ f' h => ⟨recordOutcome_fault_of_some f' h, step_of_fault h⟩,
    fun _ => rfl,
    fun _ h => step_of_refused h rfl⟩

/-- Settles O45: the reset state states each value. -/
theorem resetLeavesBlockIdle : Obligations.ResetLeavesBlockIdle :=
  ⟨rfl, rfl, rfl, rfl, rfl, rfl, rfl, rfl, rfl, rfl, rfl, rfl⟩

end Sys2Proof.Machine
end

section
/-! What each agent's step writes of the memories and of the STREAMER's registers (R75, R138), and the half in flight
(R52). -/

namespace Sys2Proof.Machine

/-- The turn that the schedule takes is run, and uses up its choice (R128). -/
theorem step_of_nextTurn {s t : State} {tn : Turn} (h : step s = .next t) (htn : nextTurn s = some tn) :
    turnEnabled s tn = true ∧ ∃ u, runTurn tn s = .next u ∧ t = dropChoice u := by
  obtain ⟨-, ⟨hnone, -⟩ | ⟨tn', u, htn', hen, hu, ht⟩⟩ := step_next h
  · cases hnone.symm.trans htn
  · cases htn'.symm.trans htn
    exact ⟨hen, u, hu, ht⟩

/-! ### The Pixel Store -/

/-- A byte-write micro-step writes the byte that one of its writes names, or, there being none, no byte (R69). -/
theorem writeStep_pix (pick : Nat) (ws : List PixWrite) (s : State) :
    (writeStep pick ws s).pix = s.pix ∨
      ∃ w ∈ ws, (writeStep pick ws s).pix = Memory.put s.pix (pixAddr w.index w.chan) w.value := by
  rcases eq_or_ne ws [] with rfl | hne
  · exact .inl rfl
  · obtain ⟨w, rest, hperm, e⟩ := writeStep_cases pick s hne
    exact .inr ⟨w, hperm.subset List.mem_cons_self, by rw [e]⟩

/-- Only `SET`, `CLEAR` and `CLEAR_ALL` have byte writes (R71 to R73). -/
theorem mem_commandWrites {p : Params} {i : Instr} {w : PixWrite} (h : w ∈ commandWrites p i) :
    (∃ index r g b, i = .set index r g b ∧ w ∈ setWrites p index r g b) ∨
      (∃ index, i = .clear index ∧ w ∈ clearWrites index) ∨ (i = .clearAll ∧ w ∈ clearAllWrites p) := by
  cases i with
  | set index r g b => exact .inl ⟨index, r, g, b, rfl, h⟩
  | clear index => exact .inr (.inl ⟨index, rfl, h⟩)
  | clearAll => exact .inr (.inr ⟨rfl, h⟩)
  | _ => cases h

/-- The HOST's turn writes at most one byte of the Pixel Store, one that its command names (R69, R75). -/
theorem hostTurn_pix {s t : State} (h : hostTurn s = .next t) :
    t.pix = s.pix ∨ ∃ w : PixWrite, t.pix = Memory.put s.pix (pixAddr w.index w.chan) w.value ∧
      ((∃ ws, s.work = .writes ws ∧ w ∈ ws) ∨
        (s.work = .idle ∧ ∃ c rest i, s.cmds = c :: rest ∧ decodeCommand c = .ok i ∧ w ∈ commandWrites s.params i)) := by
  rcases hostTurn_next h with ⟨-, -, rfl⟩ | ⟨c, rest, i, hw, hc, hd, hi⟩ | ⟨ws, hw, rfl⟩ | ⟨-, rfl⟩ | ⟨-, rfl⟩ |
    ⟨-, rfl⟩ | ⟨-, rfl⟩
  · exact .inl rfl
  · obtain ⟨-, ⟨_, _, _, _, -, -, rfl | rfl⟩ | ⟨-, -, rfl⟩ | ⟨-, -, rfl⟩⟩ := hostCommand_next hd hi
    · exact .inl rfl
    · exact .inl rfl
    · rcases writeStep_pix _ _ _ with e | ⟨w, hin, e⟩
      · exact .inl e
      · exact .inr ⟨w, e, .inr ⟨hw, c, rest, i, hc, hd, hin⟩⟩
    · exact .inl rfl
  · rcases writeStep_pix _ ws s with e | ⟨w, hin, e⟩
    · exact .inl e
    · exact .inr ⟨w, e, .inl ⟨ws, hw, hin⟩⟩
  · exact .inl rfl
  · exact .inl (encodeHalf_pix .h0 s)
  · exact .inl (encodeHalf_pix .h1 s)
  · exact .inl rfl

/-! ### The Circular Transfer Buffer -/

/-- A byte inside a half is a byte of that half (R38, R39). -/
theorem halfOf_eq_of_mem {p : Params} {half : Half} {j : Nat} (hlo : halfBase p half ≤ j)
    (hhi : j < halfBase p half + p.half) : halfOf p j = half := by
  cases half with
  | h0 => exact if_pos (by simpa [halfBase, Half.toNat] using hhi)
  | h1 => exact if_neg (by simpa [halfBase, Half.toNat] using hlo)

/-- `ENCODE_HALF` leaves every byte of the other half (R84). -/
theorem get_encodeHalf_other_half {half : Half} {s : State} {j : Nat} (hj : halfOf s.params j ≠ half) :
    Memory.get (encodeHalf half s).buf j = Memory.get s.buf j := by
  rw [get_encodeHalf, if_neg fun ⟨hlo, hhi⟩ => hj (halfOf_eq_of_mem hlo hhi)]

/-- What an IRQ step of a signal leaves alone: the Pixel Store, the STREAMER's registers and output, and the half that its
signal does not free (R138). -/
structure KeptByIrq (sig : Sig) (s t : State) : Prop where
  pix : t.pix = s.pix
  rd : t.rd = s.rd
  ccr : t.ccr = s.ccr
  out : t.out = s.out
  buf : ∀ j, halfOf s.params j ≠ sigHalf sig → Memory.get t.buf j = Memory.get s.buf j

theorem KeptByIrq.bufRead_eq {sig : Sig} {s t : State} (hk : KeptByIrq sig s t) {j : Nat}
    (hj : halfOf s.params j ≠ sigHalf sig) : bufRead t j = bufRead s j := by
  rw [bufRead, hk.buf j hj, bufRead]

theorem keptByIrq_handler (sig : Sig) (s : State) : KeptByIrq sig s (handler sig s) := by
  rcases handler_cases sig s with ⟨-, e⟩ | ⟨-, e⟩
  · rw [e]
    exact ⟨rfl, rfl, rfl, rfl, fun _ _ => rfl⟩
  · rw [e]
    cases sig <;> exact ⟨by simp, by simp, by simp, by simp, fun j hj => get_encodeHalf_other_half hj⟩

theorem keptByIrq_step {sig : Sig} {s t : State} (h : step s = .next t) (htn : nextTurn s = some sig.turn) :
    KeptByIrq sig s t := by
  obtain ⟨-, u, hu, rfl⟩ := step_of_nextTurn h htn
  rw [runTurn_turn] at hu
  obtain ⟨-, rfl⟩ := irqStep_cases hu
  obtain ⟨sched, fresh, e⟩ := dropChoice_eq (handler sig s)
  rw [e]
  exact { keptByIrq_handler sig s with }

/-! ### The HOST -/

/-- The HOST's turn leaves the STREAMER's registers and output alone, and writes the buffer at D3 and D4 alone (R138). -/
theorem hostTurn_access {s t : State} (h : hostTurn s = .next t) :
    t.ccr = s.ccr ∧ t.out = s.out ∧ t.overrun = s.overrun ∧
      (t.buf = s.buf ∨ s.work = .display .d3 ∨ s.work = .display .d4) := by
  rcases hostTurn_next h with ⟨-, -, rfl⟩ | ⟨w, rest, i, -, -, hd, hi⟩ | ⟨ws, -, rfl⟩ | ⟨-, rfl⟩ | ⟨hw, rfl⟩ |
    ⟨hw, rfl⟩ | ⟨-, rfl⟩
  · exact ⟨rfl, rfl, rfl, .inl rfl⟩
  · obtain ⟨-, ⟨_, _, _, _, -, -, rfl | rfl⟩ | ⟨-, -, rfl⟩ | ⟨-, -, rfl⟩⟩ := hostCommand_next hd hi
    · exact ⟨rfl, rfl, rfl, .inl rfl⟩
    · exact ⟨rfl, rfl, rfl, .inl rfl⟩
    · rw [startWrites_frame]
      exact ⟨rfl, rfl, rfl, .inl rfl⟩
    · exact ⟨rfl, rfl, rfl, .inl rfl⟩
  · rw [writeStep_frame]
    exact ⟨rfl, rfl, rfl, .inl rfl⟩
  · exact ⟨rfl, rfl, rfl, .inl rfl⟩
  · exact ⟨encodeHalf_ccr _ s, encodeHalf_out _ s, encodeHalf_overrun _ s, .inr (.inl hw)⟩
  · exact ⟨encodeHalf_ccr _ s, encodeHalf_out _ s, encodeHalf_overrun _ s, .inr (.inr hw)⟩
  · exact ⟨rfl, rfl, rfl, .inl rfl⟩

/-- Inside `DISPLAY` the transfer is disabled (R87 D1, R31 (a)). -/
theorem disabled_of_display {s : State} (hs : s.Inv) {d : DisplayStep} (hw : s.work = .display d) : s.xferEn = false :=
  (hs.quiet (by simp [hs.armed_of_display hw])).1

/-! ### The half in flight -/

/-- With no overrun, the half in flight is not the one that a pending signal frees (R52, R110). -/
theorem flight_half_ne_sigHalf {s : State} (hs : s.Inv) (hov : s.overrun = false) {sig : Sig}
    (hp : pending sig s = true) : halfOf s.params s.rd ≠ sigHalf sig := by
  cases sig with
  | ht => simp [halfOf, sigHalf, Nat.not_lt.2 (hs.half_flag_place hov hp)]
  | tc => simp [halfOf, sigHalf, hs.full_flag_place hov hp]

/-! ### The obligations -/

/-- Settles O42: of the turns only the HOST's writes the Pixel Store, and it does one of its command's writes. -/
theorem onlyPixelCommandsWritePixels : Obligations.OnlyPixelCommandsWritePixels := by
  intro s t h
  obtain ⟨-, ⟨-, rfl⟩ | ⟨tn, u, htn, -, hu, rfl⟩⟩ := step_next h
  · exact .inl rfl
  cases tn with
  | host =>
    rw [dropChoice_pix]
    rcases hostTurn_pix hu with e | ⟨w, e, hgoing | ⟨hw, c, rest, i, hc, hd, hin⟩⟩
    · exact .inl e
    · exact .inr ⟨htn, w, e, .inl hgoing⟩
    · exact .inr ⟨htn, w, e, .inr ⟨hw, c, rest, i, hc, hd, mem_commandWrites hin⟩⟩
  | irqHt => exact .inl (keptByIrq_step (sig := .ht) h htn).pix
  | irqTc => exact .inl (keptByIrq_step (sig := .tc) h htn).pix
  | stream =>
    obtain ⟨-, -, rfl⟩ := execStream_next hu
    exact .inl (by rw [dropChoice_pix, deliver_pix])

/-- Settles O43: a clause for each agent's turn; that the HOST fills the buffer with the transfer disabled is the
invariant's, which has ARMED inside `DISPLAY`. -/
theorem contextsKeepTheirAccess : Obligations.ContextsKeepTheirAccess := by
  intro s t hs h
  refine ⟨fun htn => ?_, fun htn => ?_, fun htn => ?_, fun htn => ?_⟩
  · obtain ⟨-, u, hu, rfl⟩ := step_of_nextTurn h htn
    obtain ⟨-, -, rfl⟩ := execStream_next hu
    simp
  · have hk := keptByIrq_step (sig := .ht) h htn
    exact ⟨hk.pix, hk.rd, hk.ccr, hk.out, fun j hj => hk.bufRead_eq (by simp [hj, sigHalf])⟩
  · have hk := keptByIrq_step (sig := .tc) h htn
    exact ⟨hk.pix, hk.rd, hk.ccr, hk.out, fun j hj => hk.bufRead_eq (by simp [hj, sigHalf])⟩
  · obtain ⟨-, u, hu, rfl⟩ := step_of_nextTurn h htn
    obtain ⟨hccr, hout, hov, hbuf⟩ := hostTurn_access hu
    simp only [dropChoice_ccr, dropChoice_out, dropChoice_overrun, dropChoice_buf]
    refine ⟨hccr, hout, hov, fun hne => ?_⟩
    rcases hbuf.resolve_left hne with hw | hw
    · exact ⟨disabled_of_display hs hw, .inl hw⟩
    · exact ⟨disabled_of_display hs hw, .inr hw⟩

/-- Settles O50: the STREAMER and, outside `DISPLAY`, the HOST leave the buffer alone; an IRQ step writes the half that its
signal frees, which is not the one in flight. -/
theorem flightHalfIsNotWritten : Obligations.FlightHalfIsNotWritten := by
  intro s t hs hst hov h j hj
  have irq : ∀ sig : Sig, nextTurn s = some sig.turn → Memory.get t.buf j = Memory.get s.buf j := fun sig htn =>
    have hp : pending sig s = true := turnEnabled_turn sig s ▸ nextTurn_enabled htn
    (keptByIrq_step h htn).buf j (hj ▸ flight_half_ne_sigHalf hs hov hp)
  obtain ⟨-, ⟨-, rfl⟩ | ⟨tn, u, htn, -, hu, rfl⟩⟩ := step_next h
  · rfl
  cases tn with
  | host =>
    have hnd := hs.no_display (by simp [hst])
    obtain ⟨-, -, -, hbuf | hw | hw⟩ := hostTurn_access hu
    · rw [dropChoice_buf, hbuf]
    · exact absurd hw (hnd .d3)
    · exact absurd hw (hnd .d4)
  | irqHt => exact irq .ht htn
  | irqTc => exact irq .tc htn
  | stream =>
    obtain ⟨-, -, rfl⟩ := execStream_next hu
    rw [dropChoice_buf, deliver_buf]

end Sys2Proof.Machine
end

section
/-! The command word (R58 to R60): what `decodeCommand` answers for each opcode, the fields of a word put together from
them, and a word put together again from its fields. -/

namespace Sys2Proof

open Machine

/-! ### The decoder, opcode by opcode -/

/-- An opcode is one of the five of R59 or lies outside them (R63). -/
theorem opcode_cases (op : BitVec 8) :
    op = 0x01#8 ∨ op = 0x02#8 ∨ op = 0x03#8 ∨ op = 0x04#8 ∨ op = 0x05#8 ∨ ¬ (1 ≤ op.toNat ∧ op.toNat ≤ 5) := by
  bv_omega

theorem decodeCommand_of_init {w : CmdWord} (h : opField w = 0x01#8) :
    decodeCommand w = .ok (.init (dmaChField w) (timerField w) (outChField w) (clkField w)) := by
  simp [decodeCommand, h]

theorem decodeCommand_of_set {w : CmdWord} (h : opField w = 0x02#8) :
    decodeCommand w = .ok (.set (indexField w) (rField w) (gField w) (bField w)) := by
  simp [decodeCommand, h]

theorem decodeCommand_of_clear {w : CmdWord} (h : opField w = 0x03#8) :
    decodeCommand w = if clearReserved w = 0#24 then .ok (.clear (indexField w)) else .error .reservedField := by
  simp [decodeCommand, h]

theorem decodeCommand_of_clearAll {w : CmdWord} (h : opField w = 0x04#8) :
    decodeCommand w = if bareReserved w = 0#56 then .ok .clearAll else .error .reservedField := by
  simp [decodeCommand, h]

theorem decodeCommand_of_display {w : CmdWord} (h : opField w = 0x05#8) :
    decodeCommand w = if bareReserved w = 0#56 then .ok .display else .error .reservedField := by
  simp [decodeCommand, h]

theorem decodeCommand_of_reservedOpcode {w : CmdWord} (h : ¬ (1 ≤ (opField w).toNat ∧ (opField w).toNat ≤ 5)) :
    decodeCommand w = .error .reservedOpcode := by
  have ne (k : BitVec 8) (hk : 1 ≤ k.toNat ∧ k.toNat ≤ 5) : opField w ≠ k := fun e => h (e ▸ hk)
  simp only [decodeCommand, ne 1#8 (by decide), ne 2#8 (by decide), ne 3#8 (by decide), ne 4#8 (by decide),
    ne 5#8 (by decide), if_false]

/-- A word with a reserved field decodes only when the field is zero (R64). -/
theorem fieldCheck_eq_ok {zero : Prop} [Decidable zero] {i j : Instr} {e : DecodeError}
    (h : (if zero then Except.ok i else .error e) = .ok j) : zero ∧ j = i := by
  split at h
  · exact ⟨‹_›, by simpa using h.symm⟩
  · cases h

/-- A word with a reserved field is refused only when the field is not zero, and only for that (R64). -/
theorem fieldCheck_eq_error {zero : Prop} [Decidable zero] {i : Instr} {e e' : DecodeError}
    (h : (if zero then Except.ok i else .error e) = .error e') : ¬ zero ∧ e' = e := by
  split at h
  · cases h
  · exact ⟨‹_›, by simpa using h.symm⟩

/-! ### The fields of a word put together from them -/

theorem fields_of_initWord (op dmaCh timer outCh : BitVec 8) (clk : BitVec 32) :
    opField (op ++ dmaCh ++ timer ++ outCh ++ clk) = op ∧ dmaChField (op ++ dmaCh ++ timer ++ outCh ++ clk) = dmaCh ∧
      timerField (op ++ dmaCh ++ timer ++ outCh ++ clk) = timer ∧
      outChField (op ++ dmaCh ++ timer ++ outCh ++ clk) = outCh ∧
      clkField (op ++ dmaCh ++ timer ++ outCh ++ clk) = clk := by
  simp [opField, dmaChField, timerField, outChField, clkField, BitVec.extractLsb'_append_eq_of_le,
    BitVec.extractLsb'_append_eq_right, -Nat.reduceAdd]

theorem fields_of_setWord (op : BitVec 8) (index : BitVec 32) (r g b : Byte) :
    opField (op ++ index ++ r ++ g ++ b) = op ∧ indexField (op ++ index ++ r ++ g ++ b) = index.toNat ∧
      rField (op ++ index ++ r ++ g ++ b) = r ∧ gField (op ++ index ++ r ++ g ++ b) = g ∧
      bField (op ++ index ++ r ++ g ++ b) = b := by
  simp [opField, indexField, rField, gField, bField, BitVec.extractLsb'_append_eq_of_le,
    BitVec.extractLsb'_append_eq_right, -Nat.reduceAdd, -BitVec.extractLsb'_toNat]

theorem fields_of_clearWord (op : BitVec 8) (index : BitVec 32) (reserved : BitVec 24) :
    opField (op ++ index ++ reserved) = op ∧ indexField (op ++ index ++ reserved) = index.toNat ∧
      clearReserved (op ++ index ++ reserved) = reserved := by
  simp [opField, indexField, clearReserved, BitVec.extractLsb'_append_eq_of_le, BitVec.extractLsb'_append_eq_right,
    -Nat.reduceAdd, -BitVec.extractLsb'_toNat]

theorem fields_of_bareWord (op : BitVec 8) (reserved : BitVec 56) :
    opField (op ++ reserved) = op ∧ bareReserved (op ++ reserved) = reserved :=
  ⟨BitVec.extractLsb'_append_eq_left, BitVec.extractLsb'_append_eq_right⟩

/-! ### A word put together again from its fields -/

theorem initWord_of_fields (w : CmdWord) :
    opField w ++ dmaChField w ++ timerField w ++ outChField w ++ clkField w = w := by
  simp only [opField, dmaChField, timerField, outChField, clkField,
    BitVec.extractLsb'_append_extractLsb'_eq_extractLsb', -Nat.reduceAdd]
  exact BitVec.extractLsb'_eq_self

theorem setWord_of_fields (w : CmdWord) :
    opField w ++ BitVec.ofNat 32 (indexField w) ++ rField w ++ gField w ++ bField w = w := by
  simp only [opField, indexField, rField, gField, bField, BitVec.ofNat_toNat, BitVec.setWidth_eq,
    BitVec.extractLsb'_append_extractLsb'_eq_extractLsb', -Nat.reduceAdd]
  exact BitVec.extractLsb'_eq_self

theorem clearWord_of_fields (w : CmdWord) :
    opField w ++ BitVec.ofNat 32 (indexField w) ++ clearReserved w = w := by
  simp only [opField, indexField, clearReserved, BitVec.ofNat_toNat, BitVec.setWidth_eq,
    BitVec.extractLsb'_append_extractLsb'_eq_extractLsb', -Nat.reduceAdd]
  exact BitVec.extractLsb'_eq_self

theorem bareWord_of_fields (w : CmdWord) : opField w ++ bareReserved w = w :=
  BitVec.extractLsb'_append_extractLsb'

/-- Every value of the `index` field fits it (R60). -/
theorem indexFits_indexField (w : CmdWord) : indexFits (indexField w) = true :=
  decide_eq_true (BitVec.isLt _)

theorem toNat_ofNat_of_indexFits {index : Nat} (h : indexFits index = true) : (BitVec.ofNat 32 index).toNat = index :=
  (BitVec.toNat_ofNat index 32).trans (Nat.mod_eq_of_lt (of_decide_eq_true h))

/-! ### Encoding, then decoding -/

theorem decode_command_of_ok {w : CmdWord} {i : Instr} (h : decodeCommand w = .ok i) : decode (.command w) = .ok [i] := by
  simp only [decode, h, Except.map]

theorem decodeCommand_initWord (dmaCh timer outCh : BitVec 8) (clk : BitVec 32) :
    decodeCommand (0x01#8 ++ dmaCh ++ timer ++ outCh ++ clk) = .ok (.init dmaCh timer outCh clk) := by
  obtain ⟨hop, hdmaCh, htimer, houtCh, hclk⟩ := fields_of_initWord 0x01#8 dmaCh timer outCh clk
  rw [decodeCommand_of_init hop, hdmaCh, htimer, houtCh, hclk]

theorem decodeCommand_setWord {index : Nat} (r g b : Byte) (h : indexFits index = true) :
    decodeCommand (0x02#8 ++ BitVec.ofNat 32 index ++ r ++ g ++ b) = .ok (.set index r g b) := by
  obtain ⟨hop, hindex, hr, hg, hb⟩ := fields_of_setWord 0x02#8 (BitVec.ofNat 32 index) r g b
  rw [decodeCommand_of_set hop, hindex, hr, hg, hb, toNat_ofNat_of_indexFits h]

theorem decodeCommand_clearWord {index : Nat} (h : indexFits index = true) :
    decodeCommand (0x03#8 ++ BitVec.ofNat 32 index ++ 0#24) = .ok (.clear index) := by
  obtain ⟨hop, hindex, hreserved⟩ := fields_of_clearWord 0x03#8 (BitVec.ofNat 32 index) 0#24
  rw [decodeCommand_of_clear hop, if_pos hreserved, hindex, toNat_ofNat_of_indexFits h]

theorem decodeCommand_clearAllWord : decodeCommand (0x04#8 ++ 0#56) = .ok .clearAll := by
  obtain ⟨hop, hreserved⟩ := fields_of_bareWord 0x04#8 0#56
  rw [decodeCommand_of_clearAll hop, if_pos hreserved]

theorem decodeCommand_displayWord : decodeCommand (0x05#8 ++ 0#56) = .ok .display := by
  obtain ⟨hop, hreserved⟩ := fields_of_bareWord 0x05#8 0#56
  rw [decodeCommand_of_display hop, if_pos hreserved]

theorem halfOfBit_halfBit (h : Half) : halfOfBit (halfBit h) = h := by
  cases h <;> rfl

/-- Settles O1: a command's word decodes by its fields; the words of the other operations are closed but for the half that
`ENCODE_HALF` takes. -/
theorem encodeDecodeRoundTrip : Obligations.EncodeDecodeRoundTrip := by
  intro i hi
  cases i with
  | init dmaCh timer outCh clk => exact decode_command_of_ok (decodeCommand_initWord dmaCh timer outCh clk)
  | set index r g b => exact decode_command_of_ok (decodeCommand_setWord r g b hi)
  | clear index => exact decode_command_of_ok (decodeCommand_clearWord hi)
  | clearAll => exact decode_command_of_ok decodeCommand_clearAllWord
  | display => exact decode_command_of_ok decodeCommand_displayWord
  | irqHt => rfl
  | irqTc => rfl
  | stream => rfl
  | encodeHalf h => simp only [encode, decode, halfOfBit_halfBit]

/-! ### Decoding, then encoding -/

/-- Settles O2: the opcode of a word that decodes is that of its command, and the word is put together from its opcode, its
operands and, where the command reserves a field, zero. -/
theorem decodedCommandHasOneWord : Obligations.DecodedCommandHasOneWord := by
  intro w i h
  rcases opcode_cases (opField w) with hop | hop | hop | hop | hop | hop
  · cases (decodeCommand_of_init hop).symm.trans h
    exact ⟨rfl, congrArg OpWord.command (hop ▸ initWord_of_fields w)⟩
  · cases (decodeCommand_of_set hop).symm.trans h
    exact ⟨indexFits_indexField w, congrArg OpWord.command (hop ▸ setWord_of_fields w)⟩
  · obtain ⟨hzero, rfl⟩ := fieldCheck_eq_ok ((decodeCommand_of_clear hop).symm.trans h)
    exact ⟨indexFits_indexField w, congrArg OpWord.command (hop ▸ hzero ▸ clearWord_of_fields w)⟩
  · obtain ⟨hzero, rfl⟩ := fieldCheck_eq_ok ((decodeCommand_of_clearAll hop).symm.trans h)
    exact ⟨rfl, congrArg OpWord.command (hop ▸ hzero ▸ bareWord_of_fields w)⟩
  · obtain ⟨hzero, rfl⟩ := fieldCheck_eq_ok ((decodeCommand_of_display hop).symm.trans h)
    exact ⟨rfl, congrArg OpWord.command (hop ▸ hzero ▸ bareWord_of_fields w)⟩
  · cases (decodeCommand_of_reservedOpcode hop).symm.trans h

/-! ### Words written out -/

/-- Settles O3: each is a decoding of one given word. -/
theorem listedWordsDecode : Obligations.ListedWordsDecode := by
  unfold Obligations.ListedWordsDecode
  decide

/-! ### The refused words -/

/-- The HOST's turn refuses by name a word that names no command (R63, R64). -/
theorem runTurn_host_of_decode_error {s : State} {w : CmdWord} {rest : List CmdWord} {e : DecodeError}
    (hw : s.work = .idle) (hc : s.cmds = w :: rest) (hd : decodeCommand w = .error e) :
    runTurn .host s = .refused (refusalOf e) := by
  simp only [runTurn, hostTurn, hw, hc, hd]

theorem clearReserved_eq_zero_iff (w : CmdWord) : clearReserved w = 0#24 ↔ w.toNat % 2 ^ 24 = 0 := by
  rw [← BitVec.toNat_inj, clearReserved, BitVec.extractLsb'_toNat]
  rfl

theorem bareReserved_eq_zero_iff (w : CmdWord) : bareReserved w = 0#56 ↔ w.toNat % 2 ^ 56 = 0 := by
  rw [← BitVec.toNat_inj, bareReserved, BitVec.extractLsb'_toNat]
  rfl

/-- A word of the five opcodes is never refused for its opcode (R63). -/
theorem decodeCommand_eq_reservedOpcode_iff (w : CmdWord) :
    decodeCommand w = .error .reservedOpcode ↔ ¬ (1 ≤ (opField w).toNat ∧ (opField w).toNat ≤ 5) := by
  refine ⟨fun h => ?_, decodeCommand_of_reservedOpcode⟩
  rcases opcode_cases (opField w) with hop | hop | hop | hop | hop | hop
  · cases (decodeCommand_of_init hop).symm.trans h
  · cases (decodeCommand_of_set hop).symm.trans h
  · cases (fieldCheck_eq_error ((decodeCommand_of_clear hop).symm.trans h)).2
  · cases (fieldCheck_eq_error ((decodeCommand_of_clearAll hop).symm.trans h)).2
  · cases (fieldCheck_eq_error ((decodeCommand_of_display hop).symm.trans h)).2
  · exact hop

/-- Exactly `CLEAR`, `CLEAR_ALL` and `DISPLAY` words are refused for a field, and only when it is not zero (R64). -/
theorem decodeCommand_eq_reservedField_iff (w : CmdWord) :
    decodeCommand w = .error .reservedField ↔
      (opField w = 3#8 ∧ clearReserved w ≠ 0#24) ∨ ((opField w = 4#8 ∨ opField w = 5#8) ∧ bareReserved w ≠ 0#56) := by
  constructor
  · intro h
    rcases opcode_cases (opField w) with hop | hop | hop | hop | hop | hop
    · cases (decodeCommand_of_init hop).symm.trans h
    · cases (decodeCommand_of_set hop).symm.trans h
    · obtain ⟨hne, -⟩ := fieldCheck_eq_error ((decodeCommand_of_clear hop).symm.trans h)
      exact .inl ⟨hop, hne⟩
    · obtain ⟨hne, -⟩ := fieldCheck_eq_error ((decodeCommand_of_clearAll hop).symm.trans h)
      exact .inr ⟨.inl hop, hne⟩
    · obtain ⟨hne, -⟩ := fieldCheck_eq_error ((decodeCommand_of_display hop).symm.trans h)
      exact .inr ⟨.inr hop, hne⟩
    · cases (decodeCommand_of_reservedOpcode hop).symm.trans h
  · rintro (⟨hop, hne⟩ | ⟨hop | hop, hne⟩)
    · rw [decodeCommand_of_clear hop, if_neg hne]
    · rw [decodeCommand_of_clearAll hop, if_neg hne]
    · rw [decodeCommand_of_display hop, if_neg hne]

/-- Settles O4: the decoder's answer opcode by opcode, which the HOST's turn passes on. -/
theorem reservedOpcodeRefused : Obligations.ReservedOpcodeRefused := fun w =>
  ⟨decodeCommand_eq_reservedOpcode_iff w, fun _ _ hw hc hop =>
    runTurn_host_of_decode_error hw hc (decodeCommand_of_reservedOpcode hop)⟩

/-- Settles O5: the decoder's answer opcode by opcode, which the HOST's turn passes on; `INIT` and `SET` test no field. -/
theorem reservedFieldRefused : Obligations.ReservedFieldRefused := by
  intro w
  refine ⟨?_, fun _ _ hw hc hd => runTurn_host_of_decode_error hw hc hd, ?_⟩
  · rw [decodeCommand_eq_reservedField_iff, Ne, Ne, clearReserved_eq_zero_iff, bareReserved_eq_zero_iff]
  · rintro (hop | hop)
    · exact ⟨_, decodeCommand_of_init hop⟩
    · exact ⟨_, decodeCommand_of_set hop⟩

end Sys2Proof
end

section
/-! The slot format: which bit of which channel each symbol of a slot comes from (R54, R78), the bytes a slot decodes back to
(R66), and the trailing slot (R55). -/

namespace Sys2Proof.Machine

/-! ### The symbols of a slot -/

/-- Symbol `k` of a byte is bit `7 - k` (R78). -/
theorem encByte_eq_map_range (p : Params) (v : Byte) :
    encByte p v = (List.range 8).map fun k => sym p (v.getLsbD (7 - k)) := rfl

theorem getElem?_encByte (p : Params) (v : Byte) {k : Nat} (h : k < 8) :
    (encByte p v)[k]? = some (sym p (v.getLsbD (7 - k))) := by
  rw [encByte_eq_map_range, List.getElem?_map, List.getElem?_range h, Option.map_some]

/-- Settles O9: the eight symbols of green, then those of red, then those of blue. -/
theorem pixelSlotLayout : Obligations.PixelSlotLayout := by
  intro p r g b
  refine ⟨encPixel_length p r g b, fun q hq => ?_⟩
  rw [encPixel]
  rcases Nat.lt_or_ge q 8 with hg | hg
  · rw [if_pos hg, List.append_assoc, List.getElem?_append_left (by simpa), getElem?_encByte p g hg,
      Nat.mod_eq_of_lt hg]
  rw [if_neg (Nat.not_lt.2 hg)]
  rcases Nat.lt_or_ge q 16 with hr | hr
  · have hq8 : q % 8 = q - 8 := by omega
    rw [if_pos hr, List.getElem?_append_left (by simpa), List.getElem?_append_right (by simpa), encByte_length,
      getElem?_encByte p r (by omega), hq8]
  · have hq8 : q % 8 = q - 16 := by omega
    rw [if_neg (Nat.not_lt.2 hr), List.getElem?_append_right (by simpa), List.length_append, encByte_length,
      encByte_length, getElem?_encByte p b (by omega), hq8]

/-! ### The bytes of a slot -/

/-- The symbol of a bit decodes to the bit when the two symbols differ (R66). -/
theorem symBit_sym {p : Params} (hp : p.highBit ≠ p.lowBit) (x : Bool) : symBit p (sym p x) = x.toNat := by
  cases x
  · exact if_neg hp.symm
  · exact if_pos rfl

/-- The first `k` symbols of a byte are worth its `k` highest bits: each further symbol doubles the value and adds the next
bit. -/
theorem symsValue_highBits {p : Params} (hp : p.highBit ≠ p.lowBit) (v : Byte) {k : Nat} (hk : k ≤ 8) :
    symsValue p ((List.range k).map fun i => sym p (v.getLsbD (7 - i))) = v.toNat / 2 ^ (8 - k) := by
  induction k with
  | zero => exact (Nat.div_eq_of_lt v.isLt).symm
  | succ k ih =>
    have ih' := ih (by omega)
    have h8 : 8 - k = 7 - k + 1 := by omega
    have h7 : 8 - (k + 1) = 7 - k := by omega
    have hbit : (v.getLsbD (7 - k)).toNat = v.toNat / 2 ^ (7 - k) % 2 := Nat.toNat_testBit _ _
    rw [symsValue, h8, Nat.pow_succ, ← Nat.div_div_eq_div_mul] at ih'
    rw [symsValue, h7, List.range_succ, List.map_append, List.foldl_append, ih']
    simp only [List.map_cons, List.map_nil, List.foldl_cons, List.foldl_nil]
    rw [symBit_sym hp, hbit, Nat.div_add_mod]

theorem symsValue_encByte {p : Params} (hp : p.highBit ≠ p.lowBit) (v : Byte) : symsValue p (encByte p v) = v.toNat := by
  rw [encByte_eq_map_range, symsValue_highBits hp v (Nat.le_refl 8), Nat.sub_self, Nat.pow_zero, Nat.div_one]

theorem decodeSlot_encPixel {p : Params} (hp : p.highBit ≠ p.lowBit) (r g b : Byte) :
    decodeSlot p (encPixel p r g b) = (r, g, b) := by
  have hg : (encPixel p r g b).take 8 = encByte p g := rfl
  have hr : ((encPixel p r g b).drop 8).take 8 = encByte p r := rfl
  have hb : ((encPixel p r g b).drop 16).take 8 = encByte p b := rfl
  simp only [decodeSlot, hg, hr, hb, symsValue_encByte hp, BitVec.ofNat_toNat, BitVec.setWidth_eq]

/-- A trailing slot is a black pixel's, symbol for symbol (R55). -/
theorem trailingSlot_eq_encPixel_zero (p : Params) : trailingSlot p = encPixel p 0 0 0 := rfl

/-- Settles O11: decoding undoes encoding, so two pixels of one slot are equal; a trailing slot is a black pixel's. -/
theorem slotDecodesToItsBytes : Obligations.SlotDecodesToItsBytes := by
  intro p hp
  refine ⟨decodeSlot_encPixel hp, fun r g b r' g' b' h => ?_, ?_⟩
  · have hd := congrArg (decodeSlot p) h
    rw [decodeSlot_encPixel hp, decodeSlot_encPixel hp] at hd
    simpa using hd
  · rw [trailingSlot_eq_encPixel_zero, decodeSlot_encPixel hp]

/-! ### The trailing slot -/

theorem slotSymbols_of_le {s : State} {idx : Nat} (h : s.params.n ≤ idx) : slotSymbols s idx = trailingSlot s.params :=
  if_neg (Nat.not_lt.2 h)

/-- Settles O10: past the strip the slot is the trailing one, and it is 24 zero bytes only if its one symbol is 0. -/
theorem trailingSlotIsBlackPixel : Obligations.TrailingSlotIsBlackPixel := by
  intro s idx h
  rw [slotSymbols_of_le h]
  exact ⟨rfl, trailingSlot_eq_encPixel_zero s.params, List.replicate_right_inj (by decide)⟩

end Sys2Proof.Machine
end

section
/-! The words that enable the IRQ steps and the STREAM step (R61, R62), and the refusal of a step that is not enabled. -/

namespace Sys2Proof.Machine

/-! ### What the words select -/

theorem getLsbD_eventWord (s : State) :
    (eventWord s).getLsbD 0 = s.pendHalf ∧ (eventWord s).getLsbD 1 = s.pendFull := by
  constructor
  · rw [eventWord, BitVec.getLsbD_append, if_pos (by decide), BitVec.getLsbD_ofBool]
    rfl
  · rw [eventWord, BitVec.getLsbD_append, if_neg (by decide), BitVec.getLsbD_ofBool]
    rfl

theorem irqHt_mem_decodeEvent (ev : BitVec 2) : Instr.irqHt ∈ decodeEvent ev ↔ ev.getLsbD 0 = true := by
  simp [decodeEvent]

theorem irqTc_mem_decodeEvent (ev : BitVec 2) : Instr.irqTc ∈ decodeEvent ev ↔ ev.getLsbD 1 = true := by
  simp [decodeEvent]

theorem stream_mem_decodeTick (x : BitVec 1) : Instr.stream ∈ decodeTick x ↔ x.getLsbD 0 = true := by
  simp [decodeTick]

theorem getLsbD_tickWord (s : State) : (tickWord s).getLsbD 0 = s.xferEn := by
  simp [tickWord]

/-- Settles O6: bit 0 of the event word is `pend_half`, bit 1 is `pend_full`, and the tick word is `xfer_en`. -/
theorem enablingWordsSelect : Obligations.EnablingWordsSelect := by
  intro s
  obtain ⟨hht, htc⟩ := getLsbD_eventWord s
  rw [irqHt_mem_decodeEvent, irqTc_mem_decodeEvent, stream_mem_decodeTick, hht, htc, getLsbD_tickWord]
  exact ⟨Iff.rfl, Iff.rfl, Iff.rfl⟩

/-! ### Steps that are not enabled -/

theorem irqStep_of_not_pending {sig : Sig} {s : State} (h : pending sig s = false) :
    irqStep sig s = .refused .notEnabled := by
  simp [irqStep, h]

theorem irqStep_of_pending {sig : Sig} {s : State} (h : pending sig s = true) :
    irqStep sig s = .next (handler sig s) :=
  if_pos h

theorem execStream_of_disabled {s : State} (h : s.xferEn = false) : execStream s = .refused .notEnabled := by
  simp [execStream, h]

theorem execStream_ne_notEnabled {s : State} (h : s.xferEn = true) : execStream s ≠ .refused .notEnabled := by
  unfold execStream
  rw [if_pos h]
  split <;> exact nofun

/-- The HOST's own refusal when it is busy is not the one of a step that is not enabled. -/
theorem whenHostFree_ne_notEnabled {s : State} {o : Host.Outcome State Fault Refusal} (h : o ≠ .refused .notEnabled) :
    whenHostFree s o ≠ .refused .notEnabled := by
  unfold whenHostFree
  split
  · exact h
  · exact nofun
  · exact nofun

/-- No HOST command is refused as not enabled: nothing enables it but the HOST's turn. -/
theorem hostCommand_ne_notEnabled {w : CmdWord} {i : Instr} (hd : decodeCommand w = .ok i) (s : State) :
    exec i s ≠ .refused .notEnabled := by
  rcases decodeCommand_cases hd with ⟨dmaCh, timer, outCh, clk, rfl⟩ | ⟨index, r, g, b, rfl⟩ | ⟨index, rfl⟩ | rfl | rfl
  all_goals refine whenHostFree_ne_notEnabled ?_
  · split <;> exact nofun
  · split <;> exact nofun
  · split <;> exact nofun
  · exact nofun
  · split <;> exact nofun

/-- A micro-step of the HOST's command in progress always completes. -/
theorem hostMicro_completes (s : State) : ∃ t, hostMicroWith (fun h => exec (.encodeHalf h)) s = .next t := by
  unfold hostMicroWith
  split <;> exact ⟨_, rfl⟩

theorem hostTurn_ne_notEnabled (s : State) : hostTurn s ≠ .refused .notEnabled := by
  obtain ⟨t, ht⟩ := hostMicro_completes s
  unfold hostTurn
  split
  · split
    · exact nofun
    · split
      · exact hostCommand_ne_notEnabled ‹_› _
      · rename_i e _
        cases e <;> exact nofun
  · rw [ht]
    exact nofun
  · rw [ht]
    exact nofun

theorem runTurn_ne_notEnabled {s : State} {tn : Turn} (h : turnEnabled s tn = true) :
    runTurn tn s ≠ .refused .notEnabled := by
  have irq (sig : Sig) (hp : pending sig s = true) : irqStep sig s ≠ .refused .notEnabled := by
    rw [irqStep_of_pending hp]
    exact nofun
  cases tn with
  | host => exact hostTurn_ne_notEnabled s
  | irqHt => exact irq .ht h
  | irqTc => exact irq .tc h
  | stream => exact execStream_ne_notEnabled h

/-- Settles O32: each step tests its own flag, and the schedule takes enabled turns only. -/
theorem stepsNotEnabledAreRefused : Obligations.StepsNotEnabledAreRefused := fun _ =>
  ⟨irqStep_of_not_pending (sig := .ht), irqStep_of_not_pending (sig := .tc), execStream_of_disabled,
    fun _ h => runTurn_ne_notEnabled (nextTurn_enabled h)⟩

end Sys2Proof.Machine
end

section
/-! The gamma function (R70): the two cases of `GAMMA_EN`, and its monotonicity. -/

namespace Sys2Proof.Machine

theorem gcorr_of_enabled {p : Params} (h : p.gammaEn = true) (v : Byte) : gcorr p v = p.gamma[v.toFin] :=
  if_pos h

theorem gcorr_of_disabled {p : Params} (h : p.gammaEn = false) (v : Byte) : gcorr p v = v :=
  if_neg (by simp [h])

/-- The gamma function is monotonic: the table because R5 says so, the identity of itself. -/
theorem gcorr_mono {p : Params} (hp : p.Ok) {a b : Byte} (h : a ≤ b) : gcorr p a ≤ gcorr p b := by
  cases hg : p.gammaEn with
  | false => rwa [gcorr_of_disabled hg, gcorr_of_disabled hg]
  | true =>
    rw [gcorr_of_enabled hg, gcorr_of_enabled hg]
    exact hp.gamma_mono a.toFin b.toFin h

/-- Settles O7: one lemma for each value of `GAMMA_EN`, and the table's own monotonicity. -/
theorem gammaFunction : Obligations.GammaFunction := fun _ =>
  ⟨gcorr_of_enabled, gcorr_of_disabled, fun hp _ _ => gcorr_mono hp⟩

end Sys2Proof.Machine
end

section
/-! What the HOST's turn runs, case by case of the work it has left (R69, R87, R128 (d)), and the step around it. -/

namespace Sys2Proof.Machine

/-! ### The HOST's turn -/

theorem hostTurn_of_command {s : State} {w : CmdWord} {rest : List CmdWord} {i : Instr} (hw : s.work = .idle)
    (hc : s.cmds = w :: rest) (hd : decodeCommand w = .ok i) : hostTurn s = exec i { s with cmds := rest } := by
  simp only [hostTurn, hw, hc, hd]

theorem hostTurn_of_writes {s : State} {ws : List PixWrite} (hw : s.work = .writes ws) :
    hostTurn s = .next (writeStep (nextChoice s).pick ws s) := by
  simp only [hostTurn, hostMicroWith, hw]

theorem hostTurn_of_d2 {s : State} (hw : s.work = .display .d2) : hostTurn s = .next (displayD2 s) := by
  simp only [hostTurn, hostMicroWith, hw]

theorem hostTurn_of_d3 {s : State} (hw : s.work = .display .d3) :
    hostTurn s = onNext (fun t => { t with work := .display .d4 }) (exec (.encodeHalf .h0) s) := by
  simp only [hostTurn, hostMicroWith, hw]

theorem hostTurn_of_d4 {s : State} (hw : s.work = .display .d4) :
    hostTurn s = onNext (fun t => { t with work := .display .d5 }) (exec (.encodeHalf .h1) s) := by
  simp only [hostTurn, hostMicroWith, hw]

theorem hostTurn_of_d5 {s : State} (hw : s.work = .display .d5) : hostTurn s = .next (displayD5 s) := by
  simp only [hostTurn, hostMicroWith, hw]

/-! ### The step -/

theorem onNext_onNext (f g : State → State) (o : Host.Outcome State Fault Refusal) :
    onNext f (onNext g o) = onNext (fun t => f (g t)) o := by
  cases o <;> rfl

/-- A step of the HOST is its turn, and uses up one choice (R128). -/
theorem step_of_host {s : State} {o : Host.Outcome State Fault Refusal} (htn : nextTurn s = some .host)
    (hr : s.Running) (ho : hostTurn s = o) : step s = onNext dropChoice o :=
  ho ▸ step_of_turn hr htn

/-- Settles O34: a step is its turn (`step_of_turn`), and the HOST's turn is read off its work; a command that decodes is
well-formed because it has one word. -/
theorem stepRunsTheOperation : Obligations.StepRunsTheOperation := by
  intro s hr
  refine ⟨?command, ?writes, ?d2, ?d3, ?d4, ?d5, step_of_turn hr, step_of_turn hr, step_of_turn hr⟩
  case command =>
    intro w rest i htn hw hc hd
    exact ⟨(decodedCommandHasOneWord w i hd).1, step_of_host htn hr (hostTurn_of_command hw hc hd)⟩
  case writes => exact fun ws htn hw _ => step_of_host htn hr (hostTurn_of_writes hw)
  case d2 => exact fun htn hw => step_of_host htn hr (hostTurn_of_d2 hw)
  case d3 =>
    intro htn hw
    rw [step_of_host htn hr (hostTurn_of_d3 hw), onNext_onNext]
  case d4 =>
    intro htn hw
    rw [step_of_host htn hr (hostTurn_of_d4 hw), onNext_onNext]
  case d5 => exact fun htn hw => step_of_host htn hr (hostTurn_of_d5 hw)

end Sys2Proof.Machine
end

section
/-! One byte write of a Pixel Store command (R69): a command starts with any one of its writes (R71 to R73), and goes on with
any one of those left (R128 (d)). -/

namespace Sys2Proof.Machine

/-! ### The first micro-step -/

theorem execSet_of_lt {s : State} {index : Nat} (r g b : Byte) (hw : s.work = .idle) (hi : index < s.params.n) :
    exec (.set index r g b) s = .next (startWrites (setWrites s.params index r g b) s) := by
  rw [exec, execSet, whenHostFree_idle _ hw, if_neg (Nat.not_le.2 hi)]

theorem execClear_of_lt {s : State} {index : Nat} (hw : s.work = .idle) (hi : index < s.params.n) :
    exec (.clear index) s = .next (startWrites (clearWrites index) s) := by
  rw [exec, execClear, whenHostFree_idle _ hw, if_neg (Nat.not_le.2 hi)]

theorem execClearAll_of_idle {s : State} (hw : s.work = .idle) :
    exec .clearAll s = .next (startWrites (clearAllWrites s.params) s) := by
  rw [exec, execClearAll, whenHostFree_idle _ hw]

/-- A command whose first micro-step starts the writes `ws` under every schedule starts with any one of them. -/
theorem startsWithAnyWrite_of_exec {i : Instr} {ws : List PixWrite} {s : State} (hne : ws ≠ [])
    (h : ∀ sched, exec i { s with sched := sched } = .next (startWrites ws { s with sched := sched })) :
    StartsWithAnyWrite i ws s := by
  constructor
  · obtain ⟨w, hw⟩ := writeStep_cases (nextChoice s).pick s hne
    exact ⟨w, startWrites ws s, h s.sched, hw⟩
  · intro w hw
    obtain ⟨k, hk⟩ := writeStep_any hw
    exact ⟨k, fun tn rest => ⟨_, h (⟨tn, k⟩ :: rest), hk { s with sched := ⟨tn, k⟩ :: rest }⟩⟩

/-- Settles O14: each command, its test passed, starts its writes whatever the schedule is. -/
theorem pixelCommandsStartWithOneWrite : Obligations.PixelCommandsStartWithOneWrite := by
  intro s hw
  refine ⟨fun index r g b hi => ?_, fun index hi => ?_, fun hn => ?_⟩
  · exact startsWithAnyWrite_of_exec (List.cons_ne_nil _ _) fun _ => execSet_of_lt r g b hw hi
  · exact startsWithAnyWrite_of_exec (List.cons_ne_nil _ _) fun _ => execClear_of_lt hw hi
  · exact startsWithAnyWrite_of_exec (clearAllWrites_ne_nil hn) fun _ => execClearAll_of_idle hw

/-! ### The writes left -/

/-- With no flag pending, the HOST in the middle of its writes is enabled (R128 (d), R129). -/
theorem host_enabled_of_writes {s : State} {ws : List PixWrite} (hq : anyPending s = false)
    (hw : s.work = .writes ws) : turnEnabled s .host = true := by
  simp only [turnEnabled, hostHasWork, hw, hq, Bool.not_false, Bool.and_self]

/-- Using up the choice at the schedule's head commutes with a byte write: the write reads no schedule. -/
theorem wroteOne_dropChoice {ws : List PixWrite} {w : PixWrite} {s t : State} {c : Choice} {rest : List Choice}
    (h : WroteOne ws w { s with sched := c :: rest } t) : WroteOne ws w { s with sched := rest } (dropChoice t) := by
  obtain ⟨left, hperm, rfl⟩ := h
  exact ⟨left, hperm, rfl⟩

/-- Settles O57: the HOST's turn is one byte-write micro-step, and the choice that names the HOST's turn and a pick makes it
the write of that pick. -/
theorem remainingWritesAreDoneInAnyOrder : Obligations.RemainingWritesAreDoneInAnyOrder := by
  intro s ws hr hq hw hne
  constructor
  · intro htn
    obtain ⟨w, hone⟩ := writeStep_cases (nextChoice s).pick s hne
    exact ⟨w, _, step_of_host htn hr (hostTurn_of_writes hw), hone⟩
  · intro w hin
    obtain ⟨k, hk⟩ := writeStep_any hin
    refine ⟨k, fun rest => ?_⟩
    have htn : nextTurn { s with sched := ⟨.host, k⟩ :: rest } = some .host :=
      nextTurn_of_sched rfl (host_enabled_of_writes hq hw)
    exact ⟨_, step_of_host htn hr (hostTurn_of_writes hw), wroteOne_dropChoice (hk _)⟩

end Sys2Proof.Machine
end

section
/-! A Pixel Store command run to its end with nothing falling between its writes (R69, R75): since no two of its writes name
the same byte, every order of them leaves each byte as its one write says and the other bytes as they were. -/

namespace Sys2Proof.Machine

/-! ### The bytes that the commands write -/

/-- The `PIX` address a byte write names (R36). -/
def PixWrite.addr (w : PixWrite) : Nat := pixAddr w.index w.chan

/-- The `PIX` addresses of a pixel's three bytes (R36). -/
def pixelAddrs (i : Nat) : List Nat := [pixAddr i .r, pixAddr i .g, pixAddr i .b]

theorem mem_pixelAddrs {i a : Nat} : a ∈ pixelAddrs i ↔ a = pixAddr i .r ∨ a = pixAddr i .g ∨ a = pixAddr i .b := by
  simp [pixelAddrs]

theorem nodup_pixelAddrs (i : Nat) : (pixelAddrs i).Nodup := by
  simp [pixelAddrs, pixAddr, chanOff]

theorem addrs_setWrites (p : Params) (index : Nat) (r g b : Byte) :
    (setWrites p index r g b).map PixWrite.addr = pixelAddrs index := rfl

theorem addrs_clearWrites (index : Nat) : (clearWrites index).map PixWrite.addr = pixelAddrs index := rfl

/-- `CLEAR_ALL` writes every byte of the strip, once (R35, R73). -/
theorem addrs_clearAllWrites (p : Params) : (clearAllWrites p).map PixWrite.addr = List.range (3 * p.n) := by
  rw [clearAllWrites]
  induction p.n with
  | zero => rfl
  | succ n ih =>
    rw [List.range_succ, List.flatMap_append, List.map_append, ih, List.flatMap_singleton, addrs_clearWrites,
      Nat.mul_succ, List.range_add]
    rfl

theorem mem_clearWrites (i : Nat) (c : Chan) : ⟨i, c, 0⟩ ∈ clearWrites i := by
  cases c <;> simp [clearWrites]

theorem mem_clearAllWrites {p : Params} {i : Nat} (c : Chan) (h : i < p.n) : ⟨i, c, 0⟩ ∈ clearAllWrites p :=
  List.mem_flatMap.2 ⟨i, List.mem_range.2 h, mem_clearWrites i c⟩

theorem nodup_addrs_commandWrites (p : Params) (i : Instr) : ((commandWrites p i).map PixWrite.addr).Nodup := by
  cases i with
  | set index r g b => exact nodup_pixelAddrs index
  | clear index => exact nodup_pixelAddrs index
  | clearAll => exact addrs_clearAllWrites p ▸ List.nodup_range
  | _ => exact List.nodup_nil

theorem length_clearAllWrites (p : Params) : (clearAllWrites p).length = 3 * p.n := by
  rw [← List.length_map PixWrite.addr, addrs_clearAllWrites, List.length_range]

theorem length_commandWrites_le {p : Params} (hn : 1 ≤ p.n) (i : Instr) : (commandWrites p i).length ≤ 3 * p.n := by
  have hpixel : 3 ≤ 3 * p.n := by omega
  cases i with
  | set index r g b => exact hpixel
  | clear index => exact hpixel
  | clearAll => exact (length_clearAllWrites p).le
  | _ => exact Nat.zero_le _

/-! ### All the writes done -/

/-- From `s` to `u` all the byte writes `ws` have been done and nothing else has changed, the schedule aside. -/
structure WroteAll (ws : List PixWrite) (s u : State) : Prop where
  written : ∀ w ∈ ws, Memory.get u.pix w.addr = some w.value
  kept : ∀ a, a ∉ ws.map PixWrite.addr → Memory.get u.pix a = Memory.get s.pix a
  canonical : Memory.wf s.pix → Memory.wf u.pix
  frame : forgetChoices u = { forgetChoices s with pix := u.pix, work := .idle }

@[simp] theorem forgetChoices_dropChoice (s : State) : forgetChoices (dropChoice s) = forgetChoices s := by
  obtain ⟨sched, fresh, e⟩ := dropChoice_eq s
  rw [e]
  rfl

namespace WroteAll

variable {ws : List PixWrite} {s u : State}

/-- With no write to do, nothing has changed. -/
theorem of_nil (hw : s.work = .idle) : WroteAll [] s s where
  written := nofun
  kept _ _ := rfl
  canonical := id
  frame := by
    rw [← hw]
    rfl

/-- A write, its choice used up, then all the writes left: since these name other bytes, the first byte stays written. -/
theorem of_wroteOne {w : PixWrite} {rest : List PixWrite} (hperm : (w :: rest).Perm ws)
    (hd : (ws.map PixWrite.addr).Nodup)
    (h : WroteAll rest (dropChoice { s with pix := Memory.put s.pix w.addr w.value, work := workOf rest }) u) :
    WroteAll ws s u := by
  have haddrs := hperm.map PixWrite.addr
  obtain ⟨hfirst, -⟩ := List.nodup_cons.1 (haddrs.nodup_iff.2 hd)
  refine ⟨fun x hx => ?_, fun a ha => ?_, fun hwf => h.canonical ?_, ?_⟩
  · rcases List.mem_cons.1 (hperm.mem_iff.2 hx) with rfl | hx
    · rw [h.kept _ hfirst, dropChoice_pix, Memory.get_put_same]
    · exact h.written x hx
  · obtain ⟨hne, hrest⟩ := List.ne_and_not_mem_of_not_mem_cons (haddrs.mem_iff.not.2 ha)
    rw [h.kept a hrest, dropChoice_pix, Memory.get_put_ne _ _ hne]
  · rw [dropChoice_pix]
    exact Memory.wf_put _ _ hwf
  · rw [h.frame, forgetChoices_dropChoice]
    rfl

theorem pixRead_written (h : WroteAll ws s u) {i : Nat} {c : Chan} {v : Byte} (hw : ⟨i, c, v⟩ ∈ ws) :
    pixRead u i c = v := by
  have hget : Memory.get u.pix (pixAddr i c) = some v := h.written _ hw
  rw [pixRead, pixReadAt, hget, Option.getD_some]

theorem pixReadAt_kept (h : WroteAll ws s u) {a : Nat} (ha : a ∉ ws.map PixWrite.addr) :
    pixReadAt u a = pixReadAt s a := by
  rw [pixReadAt, h.kept a ha, pixReadAt]

/-- Of an idle HOST's state the writes change the Pixel Store alone, the schedule aside. -/
theorem frame_of_idle (h : WroteAll ws s u) (hw : s.work = .idle) :
    forgetChoices u = { forgetChoices s with pix := u.pix } := by
  rw [h.frame, ← hw]
  rfl

/-- The same writes leave the same canonical Pixel Store. -/
theorem pix_unique {s' u' : State} (h : WroteAll ws s u) (h' : WroteAll ws s' u') (hs : s.pix = s'.pix)
    (hwf : Memory.wf s.pix) : u.pix = u'.pix := by
  refine Memory.ext_get (h.canonical hwf) (h'.canonical (hs ▸ hwf)) fun a => ?_
  by_cases ha : a ∈ ws.map PixWrite.addr
  · obtain ⟨w, hw, rfl⟩ := List.mem_map.1 ha
    rw [h.written w hw, h'.written w hw]
  · rw [h.kept a ha, h'.kept a ha, hs]

end WroteAll

/-! ### Nothing falling between the writes -/

theorem uninterrupted_of_idle {s : State} (k : Nat) (hw : s.work = .idle) : uninterrupted k s = s := by
  cases k with
  | zero => rfl
  | succ k => simp only [uninterrupted, hw]

theorem uninterrupted_of_writes {s : State} {ws : List PixWrite} (k : Nat) (hw : s.work = .writes ws) :
    uninterrupted (k + 1) s = uninterrupted k (dropChoice (writeStep (nextChoice s).pick ws s)) := by
  simp only [uninterrupted, hw]

/-- One write, then enough micro-steps, do all the writes, if enough micro-steps do all those left. -/
theorem writeStep_wroteAll {k : Nat} {ws : List PixWrite} {s : State} (pick : Nat) (hne : ws ≠ [])
    (hk : ws.length ≤ k + 1) (hd : (ws.map PixWrite.addr).Nodup)
    (hrest : ∀ (rest : List PixWrite) (t : State), t.work = workOf rest → rest.length ≤ k →
      (rest.map PixWrite.addr).Nodup → WroteAll rest t (uninterrupted k t)) :
    WroteAll ws s (uninterrupted k (dropChoice (writeStep pick ws s))) := by
  obtain ⟨w, rest, hperm, e⟩ := writeStep_cases pick s hne
  have hlen : rest.length + 1 ≤ k + 1 := hperm.length_eq.trans_le hk
  obtain ⟨-, hd'⟩ := List.nodup_cons.1 ((hperm.map PixWrite.addr).nodup_iff.2 hd)
  rw [e]
  exact .of_wroteOne hperm hd (hrest rest _ (dropChoice_work _) (Nat.le_of_succ_le_succ hlen) hd')

/-- Enough micro-steps do all the writes left, whatever order the schedule picks. -/
theorem uninterrupted_wroteAll {k : Nat} {ws : List PixWrite} {s : State} (hw : s.work = workOf ws)
    (hk : ws.length ≤ k) (hd : (ws.map PixWrite.addr).Nodup) : WroteAll ws s (uninterrupted k s) := by
  induction k generalizing ws s with
  | zero =>
    obtain rfl := List.length_eq_zero_iff.1 (Nat.le_zero.1 hk)
    exact .of_nil hw
  | succ k ih =>
    cases ws with
    | nil =>
      rw [uninterrupted_of_idle _ hw]
      exact .of_nil hw
    | cons w ws =>
      rw [uninterrupted_of_writes k hw]
      exact writeStep_wroteAll _ (List.cons_ne_nil w ws) hk hd fun _ _ => ih

/-- A command's first write, then enough micro-steps, do all its writes, whatever order the schedule picks. -/
theorem startWrites_wroteAll {k : Nat} {ws : List PixWrite} {s : State} (hne : ws ≠ []) (hk : ws.length ≤ k + 1)
    (hd : (ws.map PixWrite.addr).Nodup) : WroteAll ws s (uninterrupted k (dropChoice (startWrites ws s))) :=
  writeStep_wroteAll _ hne hk hd fun _ _ => uninterrupted_wroteAll

/-! ### The commands run to their end -/

/-- Settles O15: the three writes of `SET` name the three bytes of its pixel. -/
theorem setStoresThePixel : Obligations.SetStoresThePixel := by
  intro s index r g b hw hi
  refine ⟨_, execSet_of_lt r g b hw hi, _, rfl, ?_⟩
  have h : WroteAll (setWrites s.params index r g b) s _ :=
    startWrites_wroteAll (k := 2) (List.cons_ne_nil _ _) le_rfl (nodup_pixelAddrs index)
  refine ⟨h.pixRead_written ?_, h.pixRead_written ?_, h.pixRead_written ?_, fun a hr hg hb => h.pixReadAt_kept ?_,
    h.frame_of_idle hw⟩
  · simp [setWrites]
  · simp [setWrites]
  · simp [setWrites]
  · simp [addrs_setWrites, mem_pixelAddrs, hr, hg, hb]

/-- Settles O16: the three writes of `CLEAR` name the three bytes of its pixel, and their value is 0 itself. -/
theorem clearZeroesThePixel : Obligations.ClearZeroesThePixel := by
  intro s index hw hi
  refine ⟨_, execClear_of_lt hw hi, _, rfl, ?_⟩
  have h : WroteAll (clearWrites index) s _ :=
    startWrites_wroteAll (k := 2) (List.cons_ne_nil _ _) le_rfl (nodup_pixelAddrs index)
  refine ⟨fun c => h.pixRead_written (mem_clearWrites index c), fun a hr hg hb => h.pixReadAt_kept ?_,
    h.frame_of_idle hw⟩
  simp [addrs_clearWrites, mem_pixelAddrs, hr, hg, hb]

/-- Settles O17: the writes of `CLEAR_ALL` name each byte of the strip once, and their value is 0. -/
theorem clearAllZeroesEveryPixel : Obligations.ClearAllZeroesEveryPixel := by
  intro s hw hn
  refine ⟨_, execClearAll_of_idle hw, _, rfl, ?_⟩
  have hk : (clearAllWrites s.params).length ≤ 3 * s.params.n - 1 + 1 := by
    rw [length_clearAllWrites]
    omega
  have h := startWrites_wroteAll (s := s) (clearAllWrites_ne_nil hn) hk (nodup_addrs_commandWrites s.params .clearAll)
  refine ⟨fun i hi c => h.pixRead_written (mem_clearAllWrites c hi), fun a ha => h.pixReadAt_kept ?_,
    h.frame_of_idle hw⟩
  rw [addrs_clearAllWrites, List.mem_range]
  exact Nat.not_lt.2 ha

/-! ### The order of the writes -/

/-- A Pixel Store command that completes starts its writes, and `3 * N` further micro-steps do all of them. -/
theorem pixelCommand_wroteAll {i : Instr} {s t : State} (hn : 1 ≤ s.params.n)
    (hi : (∃ index r g b, i = .set index r g b) ∨ (∃ index, i = .clear index) ∨ i = .clearAll)
    (h : exec i s = .next t) :
    WroteAll (commandWrites s.params i) s (uninterrupted (3 * s.params.n) (dropChoice t)) := by
  have hstart : commandWrites s.params i ≠ [] ∧ t = startWrites (commandWrites s.params i) s := by
    rcases hi with ⟨index, r, g, b, rfl⟩ | ⟨index, rfl⟩ | rfl
    · obtain ⟨-, -, ht⟩ := execSet_next h
      exact ⟨List.cons_ne_nil _ _, ht⟩
    · obtain ⟨-, -, ht⟩ := execClear_next h
      exact ⟨List.cons_ne_nil _ _, ht⟩
    · obtain ⟨-, ht⟩ := execClearAll_next h
      exact ⟨clearAllWrites_ne_nil hn, ht⟩
  obtain ⟨hne, rfl⟩ := hstart
  exact startWrites_wroteAll hne (Nat.le_succ_of_le (length_commandWrites_le hn i))
    (nodup_addrs_commandWrites s.params i)

/-- Settles O18: under either schedule all the command's writes are done, which fixes the Pixel Store. -/
theorem writeOrderLeavesNoTrace : Obligations.WriteOrderLeavesNoTrace := by
  intro s i c c' f f' t t' hwf hn hi h h'
  have hall := pixelCommand_wroteAll (s := { s with sched := c, fresh := f }) hn hi h
  have hall' := pixelCommand_wroteAll (s := { s with sched := c', fresh := f' }) hn hi h'
  exact hall.pix_unique hall' rfl hwf

end Sys2Proof.Machine
end

section
/-! The Bit Encoder's operations: the bits of a byte (R77, R78), ENCODE_HALF as an operation of the table (R82, R84), what of
the Pixel Store it reads (R83), and the IRQ step that calls it (R89 to R91). -/

namespace Sys2Proof.Machine

/-! ### The bits of a byte -/

/-- Settles O8: `ENC_BYTE` is the map over the bits from 7 down, and bit `i` is `(v div 2^i) mod 2`. -/
theorem encByteIsMsbFirst : Obligations.EncByteIsMsbFirst := fun p v =>
  ⟨rfl, rfl, encByte_length p v, fun _ hk => ⟨getElem?_encByte p v hk, Nat.testBit_eq_decide_div_mod_eq⟩⟩

/-! ### ENCODE_HALF -/

/-- Settles O12: the half by `halfEncoded_encodeHalf`, all else by `encodeHalf_frame`. -/
theorem encodeHalfFillsOneHalf : Obligations.EncodeHalfFillsOneHalf := fun s h =>
  ⟨encodeHalf h s, rfl, halfEncoded_encodeHalf h s, encodeHalf_frame h s⟩

/-- The symbols of a slot depend on the bytes of the strip's pixels alone: past the strip no pixel is read (R80, R83). -/
theorem slotSymbols_congr_of_strip {s s' : State} (hp : s'.params = s.params)
    (hx : ∀ i, i < s.params.n → ∀ c, pixRead s' i c = pixRead s i c) (idx : Nat) :
    slotSymbols s' idx = slotSymbols s idx := by
  unfold slotSymbols
  rw [hp]
  split
  · rename_i hi
    simp only [hx idx hi]
  · rfl

theorem encIterations_buf_congr {s s' : State} (h : Half) (k : Nat) (hp : s'.params = s.params)
    (hc : s'.cursor = s.cursor) (hb : s'.buf = s.buf) (hsym : ∀ idx, slotSymbols s' idx = slotSymbols s idx) :
    (encIterations h k s').buf = (encIterations h k s).buf := by
  induction k with
  | zero => exact hb
  | succ k ih => rw [encIterations_succ_buf, encIterations_succ_buf, ih, hp, hc, hsym]

/-- Settles O13: every slot written is the same, and so is the place it is written to. -/
theorem encoderReadsOnlyRealPixels : Obligations.EncoderReadsOnlyRealPixels := by
  intro s s' h hp hc hb hx t t' ht ht'
  cases ht
  cases ht'
  constructor
  · simp only [encodeHalf, hp]
    exact encIterations_buf_congr h _ hp hc hb (slotSymbols_congr_of_strip hp hx)
  · rw [encodeHalf_cursor, encodeHalf_cursor, hc, hp]

/-! ### The refill of an IRQ step -/

/-- Below the threshold the IRQ step of a pending signal is the refill (R89). -/
theorem irqStep_refills {sig : Sig} {s : State} (hc : s.cursor < s.params.threshold) (hp : pending sig s = true) :
    irqStep sig s = .next (refill sig s) := by
  rw [irqStep_of_pending hp, handler, if_neg (Nat.not_le.2 hc)]

/-- Clearing the flag leaves the half that the refill has encoded (R82, R89). -/
theorem halfEncoded_refill (sig : Sig) (s : State) : HalfEncoded (sigHalf sig) s (refill sig s) := by
  cases sig with
  | ht => exact halfEncoded_encodeHalf .h0 s
  | tc => exact halfEncoded_encodeHalf .h1 s

/-- A refill changes what `ENCODE_HALF` changes, and its own flag (R89, R135). -/
theorem refill_frame (sig : Sig) (s : State) :
    refill sig s = acknowledge sig
      { s with buf := (refill sig s).buf, cursor := s.cursor + s.params.b, encCalls := s.encCalls + 1 } := by
  have hbuf : (refill sig s).buf = (encodeHalf (sigHalf sig) s).buf := by cases sig <;> rfl
  rw [hbuf, refill, ← encodeHalf_frame]

/-- Settles O27: below the threshold either IRQ step is the refill of its signal. -/
theorem irqRefillsTheFreedHalf : Obligations.IrqRefillsTheFreedHalf := fun s hc =>
  ⟨fun hp => ⟨refill .ht s, irqStep_refills hc hp, halfEncoded_refill .ht s, refill_frame .ht s⟩,
    fun hp => ⟨refill .tc s, irqStep_refills hc hp, halfEncoded_refill .tc s, refill_frame .tc s⟩⟩

end Sys2Proof.Machine
end

section
/-! `DISPLAY` from D2 to D5 (R87, R88): inside it only the HOST is enabled, so its micro-steps follow one another whatever the
schedule is; what they leave is the state of the atomic `DISPLAY`, from which the frame starts (R96 to R101). -/

namespace Sys2Proof.Machine

/-! ### The micro-steps after D1 -/

/-- What a micro-step of `DISPLAY` after D1 does (R87). -/
def displayMicro : DisplayStep → State → State
  | .d2, s => displayD2 s
  | .d3, s => { encodeHalf .h0 s with work := .display .d4 }
  | .d4, s => { encodeHalf .h1 s with work := .display .d5 }
  | .d5, s => displayD5 s

theorem hostTurn_of_display {s : State} {d : DisplayStep} (hw : s.work = .display d) :
    hostTurn s = .next (displayMicro d s) := by
  cases d with
  | d2 => exact hostTurn_of_d2 hw
  | d3 => exact hostTurn_of_d3 hw
  | d4 => exact hostTurn_of_d4 hw
  | d5 => exact hostTurn_of_d5 hw

/-- Inside `DISPLAY` the HOST alone is enabled: the transfer is disabled and no flag is pending (R31 (a), (b), R128). -/
theorem turnEnabled_of_display {s : State} (hs : s.Inv) {d : DisplayStep} (hw : s.work = .display d) (tn : Turn) :
    turnEnabled s tn = true ↔ tn = .host := by
  obtain ⟨hx, hh, hf⟩ := hs.quiet (by simp [hs.armed_of_display hw])
  cases tn <;> simp [turnEnabled, hostHasWork, anyPending, hw, hx, hh, hf]

/-- Inside `DISPLAY` the next turn is the HOST's whatever the schedule is (R88). -/
theorem nextTurn_of_display {s : State} (hs : s.Inv) {d : DisplayStep} (hw : s.work = .display d) :
    nextTurn s = some .host := by
  have hen := turnEnabled_of_display hs hw
  cases h : nextTurn s with
  | none => exact absurd ((hen .host).2 rfl) (by simp [nextTurn_none h])
  | some tn => rw [(hen tn).1 (nextTurn_enabled h)]

/-- The machine runs, inside `DISPLAY` at the micro-step `d`. -/
structure DisplayAt (d : DisplayStep) (s : State) : Prop where
  inv : s.Inv
  running : s.Running
  work : s.work = .display d

namespace DisplayAt

variable {d d' : DisplayStep} {s : State}

theorem step_eq (h : DisplayAt d s) : step s = .next (dropChoice (displayMicro d s)) :=
  step_of_host (nextTurn_of_display h.inv h.work) h.running (hostTurn_of_display h.work)

theorem inv_after (h : DisplayAt d s) : (dropChoice (displayMicro d s)).Inv :=
  stepKeepsInvariant s _ h.inv h.step_eq

/-- A micro-step that is not the last leads to the one it names next (R87). -/
theorem after (h : DisplayAt d s) (hw : (displayMicro d s).work = .display d') :
    DisplayAt d' (dropChoice (displayMicro d s)) where
  inv := h.inv_after
  running := by cases d <;> simpa [displayMicro, State.Running] using h.running
  work := by rw [dropChoice_work, hw]

end DisplayAt

/-- A run begins with its first step. -/
theorem run_succ_of_step {s t : State} (k : Nat) (h : step s = .next t) :
    Host.Core.run Sys2Proof.core (k + 1) s = Host.Core.run Sys2Proof.core k t := by
  have h' : Sys2Proof.core.step s = .next t := h
  simp only [Host.Core.run, h']

/-! ### The micro-steps as one atomic step -/

/-- The state without the schedule and without `st` and `work`, which `ENCODE_HALF` neither reads nor writes and D5 sets
anew. -/
def forgetControl (s : State) : State := { s with st := .idle, work := .idle, sched := [], fresh := 0 }

theorem forgetControl_dropChoice (s : State) : forgetControl (dropChoice s) = forgetControl s := by
  obtain ⟨sched, fresh, e⟩ := dropChoice_eq s
  rw [e]
  rfl

theorem encIterations_forgetControl (h : Half) (k : Nat) (s : State) :
    encIterations h k (forgetControl s) = forgetControl (encIterations h k s) := by
  induction k with
  | zero => rfl
  | succ k ih =>
    rw [encIterations, ih]
    rfl

theorem encodeHalf_forgetControl (h : Half) (s : State) :
    encodeHalf h (forgetControl s) = forgetControl (encodeHalf h s) := by
  have hb : (forgetControl s).params.b = s.params.b := rfl
  simp only [encodeHalf, encIterations_forgetControl, hb]
  rfl

/-- D3 and D4 do to the rest of the state what `ENCODE_HALF` does (R87). -/
theorem forgetControl_dropChoice_encodeHalf (h : Half) (w : HostWork) (s : State) :
    forgetControl (dropChoice { encodeHalf h s with work := w }) = encodeHalf h (forgetControl s) := by
  rw [forgetControl_dropChoice, encodeHalf_forgetControl]
  rfl

theorem forgetChoices_displayD5_forgetControl (s : State) :
    forgetChoices (displayD5 (forgetControl s)) = forgetChoices (displayD5 s) := rfl

/-- The micro-steps after D1, one after the other with choices used up between them, leave the state of the atomic `DISPLAY`
(R88). -/
theorem forgetChoices_displayMicros (s : State) :
    forgetChoices (displayD5 (dropChoice (displayMicro .d4 (dropChoice (displayMicro .d3 (dropChoice (displayD2
      { s with xferEn := false, st := .armed, work := .display .d2 }))))))) = forgetChoices (displayAtomic s) := by
  rw [displayAtomic, ← forgetChoices_displayD5_forgetControl, ← forgetChoices_displayD5_forgetControl (encodeHalf _ _),
    displayMicro, displayMicro, forgetControl_dropChoice_encodeHalf, forgetControl_dropChoice_encodeHalf,
    forgetControl_dropChoice, ← encodeHalf_forgetControl, ← encodeHalf_forgetControl]
  rfl

/-- After D1 the next four steps are D2 to D5 whatever the schedule is, and leave the state of the atomic `DISPLAY`
(R88). -/
theorem run_display {s : State} (h2 : DisplayAt .d2 { s with xferEn := false, st := .armed, work := .display .d2 }) :
    ∃ u : State,
      Host.Core.run Sys2Proof.core 4 { s with xferEn := false, st := .armed, work := .display .d2 } = .next u ∧
      u.Inv ∧ forgetChoices u = forgetChoices (displayAtomic s) := by
  have h3 := h2.after rfl
  have h4 := h3.after rfl
  have h5 := h4.after rfl
  refine ⟨_, ?_, h5.inv_after, ?_⟩
  · rw [run_succ_of_step 3 h2.step_eq, run_succ_of_step 2 h3.step_eq, run_succ_of_step 1 h4.step_eq,
      run_succ_of_step 0 h5.step_eq]
    rfl
  · rw [forgetChoices_dropChoice]
    exact forgetChoices_displayMicros s

/-! ### The state left -/

/-- Two calls of `ENCODE_HALF` from cursor 0 fill the buffer with the first `2 * B` slots, in their order (R82, R88). -/
theorem bufRead_prefill {s : State} (hc : s.cursor = 0) {i q : Nat} (hi : i < 2 * s.params.b) (hq : q < 24) :
    some (bufRead (encodeHalf .h1 (encodeHalf .h0 s)) (24 * i + q)) = (slotSymbols s i)[q]? := by
  obtain ⟨hfirst, -⟩ := halfEncoded_encodeHalf .h0 s
  obtain ⟨hsecond, hkept⟩ := halfEncoded_encodeHalf .h1 (encodeHalf .h0 s)
  simp only [encodeHalf_params, encodeHalf_cursor, hc, Nat.zero_add, slotAddr_eq, halfBase, Half.toNat, Nat.zero_mul,
    Nat.one_mul] at hfirst hsecond hkept
  rcases Nat.lt_or_ge i s.params.b with hlt | hge
  · rw [hkept _ (.inl (by simp only [Params.half]; omega))]
    exact hfirst i hlt q hq
  · obtain ⟨k, rfl⟩ := Nat.exists_eq_add_of_le hge
    rw [hsecond k (by omega) q hq, slotSymbols_congr (encodeHalf_params _ s) (encodeHalf_pix _ s)]

/-- What the atomic `DISPLAY` leaves in the buffer: slots 0 to `2*B - 1`, in their order (R88). -/
theorem bufRead_displayAtomic {s : State} {i q : Nat} (hi : i < 2 * s.params.b) (hq : q < 24) :
    some (bufRead (displayAtomic s) (24 * i + q)) = (slotSymbols s i)[q]? :=
  bufRead_prefill (s := { s with xferEn := false, cursor := 0, encCalls := 0, disableCnt := 0 }) rfl hi hq

/-- What the atomic `DISPLAY` leaves in the registers and in the ghost state (R88, R98). -/
structure DisplayedRegs (s u : State) : Prop where
  params : u.params = s.params
  pix : u.pix = s.pix
  cursor : u.cursor = 2 * s.params.b
  rd : u.rd = 0
  xferEn : u.xferEn = true
  st : u.st = .streaming
  encCalls : u.encCalls = 2
  disableCnt : u.disableCnt = 0
  out : u.out = s.out
  outMark : u.outMark = s.out.length
  flags : anyPending u = anyPending s
  overrun : u.overrun = s.overrun
  cmds : u.cmds = s.cmds
  work : u.work = .idle

theorem displayedRegs_displayAtomic (s : State) : DisplayedRegs s (displayAtomic s) := by
  constructor <;> simp [displayAtomic, anyPending, Nat.two_mul]

/-- The state of the atomic `DISPLAY` is the start of a frame, the HOST having no further command: nothing is delivered, two
halves are encoded, no flag is pending (R96, R98, R99). -/
theorem frameInv_displayAtomic {s : State} (hinv : (displayAtomic s).Inv) (hq : anyPending s = false)
    (hc : s.cmds = []) (hov : s.overrun = false) : FrameInv (displayAtomic s) := by
  have hr := displayedRegs_displayAtomic s
  have hb : 0 < s.params.b := hr.params ▸ hinv.params_ok.b_pos
  have hdel : delivered (displayAtomic s) = 0 := by rw [delivered, hr.out, hr.outMark, Nat.sub_self]
  have hdiv : (displayAtomic s).cursor / (displayAtomic s).params.b = 2 := by
    rw [hr.cursor, hr.params, Nat.mul_div_cancel _ hb]
  have href : refills (displayAtomic s) = 0 := by rw [refills, hdiv]
  obtain ⟨hh, hf⟩ := Bool.or_eq_false_iff.1 (hr.flags.trans hq)
  exact {
    inv := hinv
    silent := ⟨hr.cmds.trans hc, hr.work⟩
    on_time := hr.overrun.trans hov
    live := .inl hr.st
    content := by rw [hdel, hr.out, hr.outMark, List.drop_length, List.take_zero]
    enc_calls := by rw [hr.encCalls, hdiv]
    place := fun _ => by rw [hr.rd, hdel, Nat.zero_mod]
    no_disable := fun _ => hr.disableCnt
    resident := fun _ i hlt _ q hsym => by
      rw [hr.cursor] at hlt
      rw [hr.params, Nat.mod_eq_of_lt hlt, slotSymbols_congr hr.params hr.pix]
      exact bufRead_displayAtomic hlt hsym
    pace := fun _ => by simp [hdel, href]
    half_flag := fun _ => by simp [hdel, href, hh]
    full_flag := fun _ => by simp [hdel, href, hf]
    ended := by simp [hr.st] }

/-- Two states that agree, the choices forgotten, differ in the schedule alone. -/
theorem eq_of_forgetChoices {u v : State} (h : forgetChoices u = forgetChoices v) :
    u = { v with sched := u.sched, fresh := u.fresh } :=
  congrArg (fun x => { x with sched := u.sched, fresh := u.fresh }) h

/-- The frame does not speak of the schedule. -/
theorem FrameInv.reschedule {s : State} (h : FrameInv s) (sched : List Choice) (fresh : Nat) :
    FrameInv { s with sched := sched, fresh := fresh } :=
  { h with inv := inv_inputs h.inv s.cmds sched fresh }

/-- Settles O25: D1 enters `DISPLAY`, from which `run_display` leads to the atomic step's state, the schedule aside. -/
theorem displayIsOneAtomicStep : Obligations.DisplayIsOneAtomicStep := by
  intro s t hs hrun _ hready hq h
  obtain ⟨-, -, rfl⟩ := execDisplay_next h
  obtain ⟨u, hu, hinv, hview⟩ := run_display (s := s)
    ⟨inv_displayD1 hs hready (Bool.or_eq_false_iff.1 hq), hrun, rfl⟩
  have hv := eq_of_forgetChoices hview
  have hr := displayedRegs_displayAtomic s
  refine ⟨u, hu, hview, ?_⟩
  rw [hv]
  refine ⟨hr.cursor, hr.rd, hr.xferEn, hr.st, hr.encCalls, hr.outMark, hr.flags.trans hq,
    fun _ hi _ hlt => bufRead_displayAtomic hi hlt, fun hc hov => ?_⟩
  have hatomic := eq_of_forgetChoices hview.symm
  have hinv' : (displayAtomic s).Inv := hatomic ▸ inv_inputs hinv u.cmds _ _
  exact (frameInv_displayAtomic hinv' hq hc hov).reschedule _ _

end Sys2Proof.Machine
end

section
/-! D1 of `DISPLAY` (R87), the two branches of the handler (R89, R92, R93), and the steps that enable and disable the
transfer (R102, R107, R108). -/

namespace Sys2Proof.Machine

/-! ### D1 of DISPLAY -/

/-- A free HOST's `DISPLAY` on a READY block is D1 (R87). -/
theorem execDisplay_of_ready {s : State} (hw : s.work = .idle) (hi : s.initState = .ready) :
    exec .display s = .next { s with xferEn := false, st := .armed, work := .display .d2 } := by
  simp only [exec, execDisplay, whenHostFree_idle _ hw, hi]

/-- Settles O24: D1 is what `DISPLAY` answers when the HOST is free and the block READY. -/
theorem displayFirstDisables : Obligations.DisplayFirstDisables := fun _ => execDisplay_of_ready

/-! ### The two branches of the handler -/

/-- At or past the threshold the IRQ step of a pending signal is the termination (R92). -/
theorem irqStep_terminates {sig : Sig} {s : State} (hc : s.params.threshold ≤ s.cursor) (hp : pending sig s = true) :
    irqStep sig s = .next (terminate s) := by
  rw [irqStep_of_pending hp, handler, if_pos hc]

/-- After a termination only the HOST can step: no flag is pending and the transfer is disabled (R92, R128). -/
theorem enabledTurns_terminate {s : State} {tn : Turn} (h : tn ∈ enabledTurns (terminate s)) : tn = .host := by
  have hen : turnEnabled (terminate s) tn = true := (List.mem_filter.1 h).2
  cases tn with
  | host => rfl
  | irqHt => cases hen
  | irqTc => cases hen
  | stream => cases hen

/-- Settles O26: at or past the threshold either IRQ step is the termination, whatever its signal. -/
theorem handlerTerminates : Obligations.HandlerTerminates := by
  intro s i hc h
  rcases h with ⟨rfl, hp⟩ | ⟨rfl, hp⟩
  · exact ⟨terminate s, irqStep_terminates (sig := .ht) hc hp, rfl, fun _ => enabledTurns_terminate⟩
  · exact ⟨terminate s, irqStep_terminates (sig := .tc) hc hp, rfl, fun _ => enabledTurns_terminate⟩

/-- An IRQ step either disables the transfer, at or past the threshold, or encodes once, below it (R89, R93). -/
theorem irqStep_transfer {sig : Sig} {s t : State} (h : irqStep sig s = .next t) :
    (t.xferEn = false ∧ t.st = .done ∧ t.encCalls = s.encCalls ∧ t.cursor = s.cursor ∧ s.params.threshold ≤ s.cursor) ∨
    (t.xferEn = s.xferEn ∧ t.st = s.st ∧ t.encCalls = s.encCalls + 1 ∧ t.cursor = s.cursor + s.params.b ∧
      s.cursor < s.params.threshold) := by
  obtain ⟨-, rfl⟩ := irqStep_cases h
  rcases handler_cases sig s with ⟨hc, e⟩ | ⟨hc, e⟩
  · rw [e]
    exact .inl ⟨rfl, rfl, rfl, rfl, hc⟩
  · rw [e]
    cases sig <;> exact .inr ⟨by simp, by simp, by simp, by simp, hc⟩

/-- Settles O28: each IRQ step is the handler of its signal. -/
theorem handlerRefillsOrDisables : Obligations.HandlerRefillsOrDisables := by
  intro s t i hi h
  rcases hi with rfl | rfl
  · exact irqStep_transfer (sig := .ht) h
  · exact irqStep_transfer (sig := .tc) h

/-! ### Enabling and disabling the transfer -/

/-- The HOST's turn disables the transfer by D1 of `DISPLAY` and enables it by D5 alone; a successful `INIT` finds it
disabled (R87, R108, R115). -/
theorem hostTurn_transfer {s t : State} (hs : s.Inv) (h : hostTurn s = .next t) :
    t.xferEn = s.xferEn ∨
      (t.xferEn = false ∧ t.rd = s.rd ∧ t.work = .display .d2) ∨
      (t.xferEn = true ∧ s.work = .display .d5 ∧ t.rd = 0 ∧ t.st = .streaming) := by
  rcases hostTurn_next h with ⟨-, -, rfl⟩ | ⟨w, rest, i, -, -, hd, hi⟩ | ⟨ws, -, rfl⟩ | ⟨-, rfl⟩ | ⟨-, rfl⟩ |
    ⟨-, rfl⟩ | ⟨hw, rfl⟩
  · exact .inl rfl
  · obtain ⟨-, ⟨_, _, _, _, -, hun, rfl | rfl⟩ | ⟨-, -, rfl⟩ | ⟨-, -, rfl⟩⟩ := hostCommand_next hd hi
    · exact .inl (hs.not_ready_idle (by simp [show s.initState = .uninit from hun])).2.symm
    · exact .inl rfl
    · exact .inl (by rw [startWrites_frame])
    · exact .inr (.inl ⟨rfl, rfl, rfl⟩)
  · exact .inl (by rw [writeStep_frame])
  · exact .inl rfl
  · exact .inl (encodeHalf_xferEn _ s)
  · exact .inl (encodeHalf_xferEn _ s)
  · exact .inr (.inr ⟨rfl, hw, rfl, rfl⟩)

/-- A step leaves the transfer as enabled as it was, or disables it by D1 or a termination, or enables it by D5 (R102, R107,
R108). -/
theorem step_transfer {s t : State} (hs : s.Inv) (h : step s = .next t) :
    t.xferEn = s.xferEn ∨
      (t.xferEn = false ∧ t.rd = s.rd ∧ t.ccr = s.ccr ∧
        ((t.st = .done ∧ s.params.threshold ≤ s.cursor) ∨ t.work = .display .d2)) ∨
      (t.xferEn = true ∧ s.work = .display .d5 ∧ t.rd = 0 ∧ t.st = .streaming) := by
  obtain ⟨-, ⟨-, rfl⟩ | ⟨tn, u, -, -, hu, rfl⟩⟩ := step_next h
  · exact .inl rfl
  simp only [dropChoice_xferEn, dropChoice_rd, dropChoice_ccr, dropChoice_st, dropChoice_work]
  have irq (sig : Sig) (hu : irqStep sig s = .next u) : u.xferEn = s.xferEn ∨
      (u.xferEn = false ∧ u.rd = s.rd ∧ u.ccr = s.ccr ∧
        ((u.st = .done ∧ s.params.threshold ≤ s.cursor) ∨ u.work = .display .d2)) := by
    rcases irqStep_transfer hu with ⟨hoff, hdone, -, -, hc⟩ | ⟨e, -⟩
    · obtain ⟨-, rfl⟩ := irqStep_cases hu
      have hk := keptByIrq_handler sig s
      exact .inr ⟨hoff, hk.rd, hk.ccr, .inl ⟨hdone, hc⟩⟩
    · exact .inl e
  cases tn with
  | host =>
    rcases hostTurn_transfer hs hu with e | ⟨hoff, hrd, hw⟩ | hon
    · exact .inl e
    · exact .inr (.inl ⟨hoff, hrd, (hostTurn_access hu).1, .inr hw⟩)
    · exact .inr (.inr hon)
  | irqHt => exact (irq .ht hu).imp_right .inl
  | irqTc => exact (irq .tc hu).imp_right .inl
  | stream =>
    obtain ⟨-, -, rfl⟩ := execStream_next hu
    exact .inl rfl

/-- Settles O39: of the three cases of `step_transfer` the premises of each clause leave one. -/
theorem transferEnableChanges : Obligations.TransferEnableChanges := by
  intro s t hs h
  constructor
  · intro hoff hon
    rcases step_transfer hs h with e | ⟨e, -⟩ | ⟨-, hd5⟩
    · cases hon.symm.trans (e.trans hoff)
    · cases hon.symm.trans e
    · exact hd5
  · intro hon hoff
    rcases step_transfer hs h with e | ⟨-, hkept⟩ | ⟨e, -⟩
    · cases hoff.symm.trans (e.trans hon)
    · exact hkept
    · cases hoff.symm.trans e

end Sys2Proof.Machine
end

section
/-! What a finished display request has delivered (R97 to R99): the strip's slots, then only trailing symbols. -/

namespace Sys2Proof.Machine

/-- Past the strip the frame holds `LOW_BIT` alone (R55, R99). -/
theorem frameSlots_past_strip (s : State) (k : Nat) :
    frameSlots s (s.params.n + k) = frameSlots s s.params.n ++ List.replicate (24 * k) s.params.lowBit := by
  induction k with
  | zero => simp
  | succ k ih =>
    have hslot : slotSymbols s (s.params.n + k) = List.replicate 24 s.params.lowBit :=
      slotSymbols_of_le (Nat.le_add_right _ k)
    rw [← Nat.add_assoc, frameSlots_succ, ih, hslot, List.append_assoc, List.replicate_append_replicate, Nat.mul_succ]

/-- A cut of the frame past the strip: all pixels, then only `LOW_BIT` (R99). -/
theorem take_frameSlots_past_strip {s : State} {m k : Nat} (h : 24 * s.params.n + k ≤ 24 * m) :
    (frameSlots s m).take (24 * s.params.n + k) = frameSlots s s.params.n ++ List.replicate k s.params.lowBit := by
  obtain ⟨d, rfl⟩ := Nat.exists_eq_add_of_le (show s.params.n ≤ m by omega)
  rw [frameSlots_past_strip, ← frameSlots_length, List.take_length_add_append, List.take_replicate,
    Nat.min_eq_left (by omega)]

/-- Settles O55: at DONE `K` halves and a rest below `HALF` are delivered, and `K * B` slots hold the whole strip. -/
theorem doneFrameIsDelivered : Obligations.DoneFrameIsDelivered := by
  intro s h hst
  obtain ⟨hdis, hcur, hK⟩ := h.ended hst
  obtain ⟨hn, -, -⟩ := signals_spec h.inv.params_ok
  have hj : delivered s % s.params.half < s.params.half := Nat.mod_lt _ h.half_pos
  have hhalf : s.params.half = 24 * s.params.b := rfl
  have hsplit : delivered s =
      24 * s.params.n + (24 * (s.params.signals * s.params.b - s.params.n) + delivered s % s.params.half) := by
    have hdiv := Nat.div_add_mod' (delivered s) s.params.half
    have hslots : s.params.signals * s.params.half = 24 * (s.params.signals * s.params.b) := Nat.mul_left_comm _ _ _
    rw [hK, hslots] at hdiv
    omega
  refine ⟨delivered s % s.params.half, hj, ?_, ?_, hcur, hdis⟩
  · rw [h.content, hcur, hsplit, take_frameSlots_past_strip]
    · rw [← hsplit]
    · rw [← hsplit, Nat.add_mul]
      omega
  · rw [h.enc_calls, hcur, Nat.mul_div_cancel _ h.inv.params_ok.b_pos]

end Sys2Proof.Machine
end

section
/-! A display request whose every IRQ step is prompt (R97 to R99, `j = 0`): each signal takes `HALF` deliveries and its own
IRQ step, and after the `K`-th the request is DONE. -/

namespace Sys2Proof.Machine

/-! ### Runs and the parts of a signal's round -/

/-- A run goes on from where its first part ends. -/
theorem run_add_of_run {a : Nat} {s t : State} (k : Nat) (h : Host.Core.run Sys2Proof.core a s = .next t) :
    Host.Core.run Sys2Proof.core (a + k) s = Host.Core.run Sys2Proof.core k t := by
  induction a generalizing s with
  | zero =>
    cases h
    rw [Nat.zero_add]
  | succ a ih =>
    cases hstep : step s with
    | next u =>
      rw [run_succ_of_step a hstep] at h
      rw [Nat.succ_add, run_succ_of_step (a + k) hstep, ih h]
    | fault r =>
      have hstep' : Sys2Proof.core.step s = .fault r := hstep
      simp [Host.Core.run, hstep'] at h
    | refused r =>
      have hstep' : Sys2Proof.core.step s = .refused r := hstep
      simp [Host.Core.run, hstep'] at h

/-- Odd signals are half-complete, even ones complete: the signal after `r` others frees half `r mod 2` (R97, R101). -/
theorem exists_prompt_signal (r : Nat) :
    ∃ sig : Sig, (if (r + 1) % 2 = 1 then Turn.irqHt else Turn.irqTc) = sig.turn ∧ r % 2 = (sigHalf sig).toNat := by
  rcases Nat.mod_two_eq_zero_or_one r with h | h
  · exact ⟨.ht, if_pos (by omega), h⟩
  · exact ⟨.tc, if_neg (by omega), h⟩

theorem delivered_deliver {s : State} (h : s.outMark ≤ s.out.length) : delivered (deliver s) = delivered s + 1 := by
  simp only [delivered, deliver_out, deliver_outMark, List.length_append, List.length_singleton]
  omega

/-- The handler writes neither the mark of the output nor the schedule nor the record of a stop. -/
theorem handler_kept (sig : Sig) (s : State) :
    (handler sig s).outMark = s.outMark ∧ (handler sig s).sched = s.sched ∧ (handler sig s).fault = s.fault ∧
      (handler sig s).refused = s.refused := by
  rcases handler_cases sig s with ⟨-, e⟩ | ⟨-, e⟩
  · rw [e]
    exact ⟨rfl, rfl, rfl, rfl⟩
  · rw [e]
    cases sig <;> simp

theorem delivered_handler (sig : Sig) (s : State) : delivered (handler sig s) = delivered s := by
  rw [delivered, (keptByIrq_handler sig s).out, (handler_kept sig s).1, delivered]

namespace FrameInv

variable {s : State}

theorem refills_eq_iff (h : FrameInv s) {r : Nat} : refills s = r ↔ s.cursor = (r + 2) * s.params.b := by
  rw [h.cursor_eq, Nat.mul_left_inj (Nat.ne_of_gt h.inv.params_ok.b_pos), Nat.add_right_cancel_iff]

/-- Until one more half has been left than refilled no flag is pending, so a delivery misses no deadline (R101, R110). -/
theorem delivery_on_time (h : FrameInv s) (hst : s.st = .streaming)
    (hlt : delivered s < (refills s + 1) * s.params.half) : (deliver s).overrun = false := by
  have hq : delivered s / s.params.half < refills s + 1 := (Nat.div_lt_iff_lt_mul h.half_pos).2 hlt
  have hh : s.pendHalf = false := by simpa using fun hp => Nat.ne_of_lt hq ((h.half_flag hst).1 hp).1
  have hf : s.pendFull = false := by simpa using fun hp => Nat.ne_of_lt hq ((h.full_flag hst).1 hp).1
  have hpos := h.half_pos
  simp only [deliver_overrun, h.on_time, hh, hf, Bool.false_or, Bool.and_eq_false_iff, decide_eq_false_iff_not]
  omega

/-- The request is not over before its `K`-th signal: `K - 1` refills are the most there are (R97, R103). -/
theorem refills_lt_signals (h : FrameInv s) : refills s < s.params.signals := by
  obtain ⟨-, -, hle⟩ := h.inv.cursor_bound h.live
  rw [h.cursor_eq] at hle
  have := Nat.le_of_mul_le_mul_right hle h.inv.params_ok.b_pos
  omega

end FrameInv

/-! ### The states of the run -/

/-- A running state of a display request that is on time, with parameters `p` and Pixel Store `pix`. -/
structure OnTime (p : Params) (pix : Memory) (s : State) : Prop where
  frame : FrameInv s
  running : s.Running
  params : s.params = p
  pix : s.pix = pix

/-- A prompt request after `r` signals: `r` halves delivered; `r` refills done, or, at the `K`-th signal, DONE (R97). -/
structure AfterSignals (p : Params) (pix : Memory) (r : Nat) (s : State) : Prop extends OnTime p pix s where
  halves_delivered : delivered s = r * p.half
  stage : (s.st = .streaming ∧ refills s = r) ∨ (s.st = .done ∧ r = p.signals)

variable {p : Params} {pix : Memory} {s : State} {rest : List Choice}

/-- A step of STREAM that the schedule names, no flag being pending: one symbol more, on time (R106, R128). -/
theorem OnTime.step_stream {k : Nat} (h : OnTime p pix s) (hst : s.st = .streaming)
    (hs : s.sched = ⟨.stream, k⟩ :: rest) (hlt : delivered s < (refills s + 1) * p.half) :
    ∃ t : State, step s = .next t ∧ OnTime p pix t ∧ t.st = .streaming ∧ refills t = refills s ∧
      delivered t = delivered s + 1 ∧ t.sched = rest := by
  have hx : s.xferEn = true := h.frame.inv.enabled_iff_streaming.2 hst
  have htn : nextTurn s = some .stream := nextTurn_of_sched hs hx
  have hexec : runTurn .stream s = .next (deliver s) := by
    rw [runTurn, exec, execStream, if_pos hx, if_pos h.frame.inv.rd_range]
  have hframe := h.frame.delivers hx (h.frame.delivery_on_time hst (h.params ▸ hlt))
  refine ⟨dropChoice (deliver s), ?_, ⟨hframe.forget_choice, ?_, ?_, ?_⟩, ?_, ?_, ?_, ?_⟩
  · rw [step_of_turn h.running htn, hexec, onNext_next]
  · simpa [State.Running] using h.running
  · simpa using h.params
  · simpa using h.pix
  · simpa using hst
  · simp [refills]
  · rw [delivered, dropChoice_out, dropChoice_outMark]
    exact delivered_deliver h.frame.inv.mark_in_out
  · simp [hs]

/-- `m` steps of STREAM, to the end of the half at most: `m` symbols more, on time (R106, R110). -/
theorem OnTime.run_streams (m : Nat) (h : OnTime p pix s) (hst : s.st = .streaming)
    (hs : s.sched = List.replicate m ⟨.stream, 0⟩ ++ rest) (hle : delivered s + m ≤ (refills s + 1) * p.half) :
    ∃ t : State, Host.Core.run Sys2Proof.core m s = .next t ∧ OnTime p pix t ∧ t.st = .streaming ∧ refills t = refills s ∧
      delivered t = delivered s + m ∧ t.sched = rest := by
  induction m generalizing s with
  | zero => exact ⟨s, rfl, h, hst, rfl, rfl, hs⟩
  | succ m ih =>
    obtain ⟨u, hu, hut, hust, hur, hud, hus⟩ := h.step_stream hst hs (by omega)
    obtain ⟨t, ht, htt, htst, htr, htd, hts⟩ := ih hut hust hus (by rw [hur]; omega)
    exact ⟨t, (run_succ_of_step m hu).trans ht, htt, htst, htr.trans hur, by omega, hts⟩

/-- The IRQ step of a pending signal that the schedule names keeps the request on time and delivers nothing (R89, R128). -/
theorem OnTime.step_irq {sig : Sig} {k : Nat} (h : OnTime p pix s) (hp : pending sig s = true)
    (hs : s.sched = ⟨sig.turn, k⟩ :: rest) :
    step s = .next (dropChoice (handler sig s)) ∧ OnTime p pix (dropChoice (handler sig s)) ∧
      delivered (dropChoice (handler sig s)) = delivered s ∧ (dropChoice (handler sig s)).sched = rest := by
  have htn : nextTurn s = some sig.turn := nextTurn_of_sched hs (by rwa [turnEnabled_turn])
  obtain ⟨-, hsched, hfault, hrefused⟩ := handler_kept sig s
  refine ⟨?_, ⟨(h.frame.handles hp).forget_choice, ?_, ?_, ?_⟩, ?_, ?_⟩
  · rw [step_of_turn h.running htn, runTurn_turn, irqStep_of_pending hp, onNext_next]
  · simpa [State.Running, hfault, hrefused] using h.running
  · simpa using h.params
  · rw [dropChoice_pix, (keptByIrq_handler sig s).pix, h.pix]
  · rw [delivered, dropChoice_out, dropChoice_outMark]
    exact delivered_handler sig s
  · rw [dropChoice_sched, hsched, hs, List.tail_cons]

/-- The next half delivered, its IRQ step is one signal more: it refills or, at the `K`-th signal, terminates (R96, R97). -/
theorem OnTime.step_signal {r : Nat} (h : OnTime p pix s) (hst : s.st = .streaming) (hr : refills s = r)
    (hdel : delivered s = (r + 1) * p.half)
    (hs : s.sched = ⟨if (r + 1) % 2 = 1 then .irqHt else .irqTc, 0⟩ :: rest) :
    ∃ t : State, step s = .next t ∧ AfterSignals p pix (r + 1) t ∧ t.sched = rest := by
  obtain ⟨sig, hturn, hhalf⟩ := exists_prompt_signal r
  have hdiv : delivered s / s.params.half = r + 1 := by
    rw [hdel, ← h.params, Nat.mul_div_cancel _ h.frame.half_pos]
  have hp : pending sig s = true := (h.frame.pending_iff hst sig).2 (by rw [hdiv, hr]; exact ⟨rfl, hhalf⟩)
  obtain ⟨ht, htt, htd, hts⟩ := h.step_irq hp (hturn ▸ hs)
  refine ⟨_, ht, ⟨htt, htd.trans hdel, ?_⟩, hts⟩
  rcases irqStep_transfer (irqStep_of_pending hp) with ⟨-, hdone, -, -, -⟩ | ⟨-, hstay, -, hcur, -⟩
  · have hend := ((h.frame.handles hp).ended hdone).2.2
    rw [delivered_handler, handler_params, hdiv, h.params] at hend
    exact .inr ⟨by rwa [dropChoice_st], hend⟩
  · refine .inl ⟨by rw [dropChoice_st, hstay, hst], htt.frame.refills_eq_iff.2 ?_⟩
    rw [dropChoice_cursor, hcur, h.frame.refills_eq_iff.1 hr, dropChoice_params, handler_params, ← Nat.succ_mul]

/-- The round of the next signal: `HALF` deliveries, then its IRQ step (R97). -/
theorem AfterSignals.round {r : Nat} (h : AfterSignals p pix r s) (hst : s.st = .streaming) (hr : refills s = r)
    (hs : s.sched = List.replicate p.half ⟨.stream, 0⟩ ++ ⟨if (r + 1) % 2 = 1 then .irqHt else .irqTc, 0⟩ :: rest) :
    ∃ t : State, Host.Core.run Sys2Proof.core (p.half + 1) s = .next t ∧ AfterSignals p pix (r + 1) t ∧ t.sched = rest := by
  have hsum : delivered s + p.half = (r + 1) * p.half := by rw [h.halves_delivered, Nat.succ_mul]
  obtain ⟨u, hu, hut, hust, hur, hud, hus⟩ := h.run_streams p.half hst hs (by rw [hsum, hr])
  obtain ⟨t, ht, htt, hts⟩ := hut.step_signal hust (hur.trans hr) (hud.trans hsum) hus
  exact ⟨t, (run_add_of_run 1 hu).trans (run_succ_of_step 0 ht), htt, hts⟩

/-- The rounds of all signals still to come lead to the end of the request (R97). -/
theorem AfterSignals.run_prompt (m : Nat) {r : Nat} (h : AfterSignals p pix r s) (hm : r + m = p.signals)
    (hs : s.sched = promptSchedule p (r + 1) m ++ rest) :
    ∃ t : State, Host.Core.run Sys2Proof.core (m * (p.half + 1)) s = .next t ∧ AfterSignals p pix p.signals t ∧
      t.st = .done ∧ t.sched = rest := by
  induction m generalizing r s with
  | zero =>
    obtain rfl : r = p.signals := hm
    rcases h.stage with ⟨-, hr⟩ | ⟨hdone, -⟩
    · exact absurd (h.params ▸ h.frame.refills_lt_signals) (Nat.not_lt.2 (Nat.le_of_eq hr.symm))
    · exact ⟨s, by rw [Nat.zero_mul]; rfl, h, hdone, hs⟩
  | succ m ih =>
    rcases h.stage with ⟨hst, hr⟩ | ⟨-, hr⟩
    · rw [promptSchedule, List.append_assoc, List.cons_append] at hs
      obtain ⟨u, hu, hut, hus⟩ := h.round hst hr hs
      obtain ⟨t, ht, htt, hdone, hts⟩ := ih hut (by omega) hus
      refine ⟨t, ?_, htt, hdone, hts⟩
      rw [Nat.succ_mul, Nat.add_comm, run_add_of_run _ hu, ht]
    · omega

/-- Settles O56: `DISPLAY` leaves the request after no signal; at the end `K` halves are delivered, a whole number of
slots. -/
theorem promptRunDeliversTheFrame : Obligations.PromptRunDeliversTheFrame := by
  intro s rest h hrun hst hcur hmark hs
  have hstart : AfterSignals s.params s.pix 0 s :=
    ⟨⟨h, hrun, rfl, rfl⟩, by rw [delivered, hmark, Nat.sub_self, Nat.zero_mul], .inl ⟨hst, h.refills_eq_iff.2 (by omega)⟩⟩
  obtain ⟨t, ht, hend, hdone, hts⟩ := hstart.run_prompt s.params.signals (Nat.zero_add _) hs
  have hparams : t.params = s.params := hend.params
  obtain ⟨hdis, htcur, -⟩ := hend.frame.ended hdone
  rw [hparams] at htcur
  refine ⟨t, ht, hdone, (hend.frame.inv.quiet (by simp [hdone])).1, hend.frame.on_time, hts, hdis, ?_, htcur, ?_⟩
  · rw [hend.frame.enc_calls, hparams, htcur, Nat.mul_div_cancel _ h.inv.params_ok.b_pos]
  · have hlen : s.params.signals * s.params.half = 24 * (s.params.signals * s.params.b) := Nat.mul_left_comm _ _ _
    rw [hend.frame.content, hend.halves_delivered, hlen, htcur, frameSlots_congr hparams hend.pix, Nat.add_mul,
      take_frameSlots_add s _ (Nat.le_refl _), ← frameSlots_length s, List.take_length]

end Sys2Proof.Machine
end

section
/-! The streamer's one operation (R106): when a delivery raises a signal (R109), and how many deliveries a pending signal
leaves its refill (R110, R148). -/

namespace Sys2Proof.Machine

/-! ### STREAM with the transfer enabled -/

theorem execStream_of_enabled {s : State} (hx : s.xferEn = true) (hrd : s.rd < s.params.buflen) :
    execStream s = .next (deliver s) := by
  rw [execStream, if_pos hx, if_pos hrd]

/-- Settles O30: the step is `deliver`, whose whole state is the one stated. -/
theorem streamDeliversOneSymbol : Obligations.StreamDeliversOneSymbol := fun _ hx hrd =>
  ⟨_, _, _, rfl, rfl, rfl, execStream_of_enabled hx hrd⟩

/-! ### The signals of a delivery -/

@[simp] theorem halfBase_sigHalf_ht (p : Params) : halfBase p (sigHalf .ht) = 0 := Nat.zero_mul _
@[simp] theorem halfBase_sigHalf_tc (p : Params) : halfBase p (sigHalf .tc) = p.half := Nat.one_mul _

/-- The read index comes to the start of the half that a signal does not free from the last symbol of the one it frees
(R106, R109). -/
theorem next_rd_eq_halfBase_iff {p : Params} (hp : p.Ok) {rd : Nat} (h : rd < p.buflen) (sig : Sig) :
    (rd + 1) % p.buflen = halfBase p (sigHalf sig.other) ↔ rd + 1 = halfBase p (sigHalf sig) + p.half := by
  have hpos := params_half_pos hp
  have hlen := buflen_eq p
  have hnext := next_rd_cases h
  cases sig <;> rw [Sig.other, halfBase_sigHalf_ht, halfBase_sigHalf_tc] <;> omega

theorem pending_deliver (sig : Sig) (s : State) : pending sig (deliver s) =
    (pending sig s || decide ((s.rd + 1) % s.params.buflen = halfBase s.params (sigHalf sig.other))) := by
  cases sig <;> simp [pending, Sig.other]

@[simp] theorem pending_dropChoice (sig : Sig) (s : State) : pending sig (dropChoice s) = pending sig s := by
  cases sig <;> simp [pending]

/-- A signal is pending after a delivery if it was before or its half's last symbol is the one delivered (R109). -/
theorem pending_deliver_iff {s : State} (hp : s.params.Ok) (hrd : s.rd < s.params.buflen) (sig : Sig) :
    pending sig (deliver s) = true ↔
      pending sig s = true ∨ s.rd + 1 = halfBase s.params (sigHalf sig) + s.params.half := by
  rw [pending_deliver, Bool.or_eq_true, decide_eq_true_iff, next_rd_eq_halfBase_iff hp hrd]

/-- A delivery sets `overrun` exactly when it leaves both signals pending (R110). -/
theorem deliver_overrun_iff (sig : Sig) (s : State) : (deliver s).overrun = true ↔
    s.overrun = true ∨ (pending sig (deliver s) = true ∧ pending sig.other (deliver s) = true) := by
  have e : (deliver s).overrun = (s.overrun || ((deliver s).pendHalf && (deliver s).pendFull)) := rfl
  rw [e, Bool.or_eq_true, Bool.and_eq_true]
  cases sig with
  | ht => rfl
  | tc => rw [and_comm]; rfl

/-- Settles O31: the last symbols of the two halves are those at `HALF - 1` and at `BUFLEN - 1`. -/
theorem signalsAtHalfBoundaries : Obligations.SignalsAtHalfBoundaries := by
  intro s t hp h
  obtain ⟨-, hrd, rfl⟩ := execStream_next h
  have hhalf := pending_deliver_iff hp hrd .ht
  have hfull := pending_deliver_iff hp hrd .tc
  rw [halfBase_sigHalf_ht, Nat.zero_add] at hhalf
  rw [halfBase_sigHalf_tc, ← Nat.two_mul, ← buflen_eq] at hfull
  exact ⟨hhalf, hfull, deliver_overrun_iff .ht s⟩

/-! ### The deadline of a refill -/

/-- A running, streaming state that is on time, `k` deliveries after `sig` alone was raised and not serviced since: the
streamer has read `k` symbols of the other half. -/
structure Unserviced (sig : Sig) (k : Nat) (s : State) : Prop where
  params_ok : s.params.Ok
  running : s.Running
  enabled : s.xferEn = true
  on_time : s.overrun = false
  raised : pending sig s = true
  alone : pending sig.other s = false
  place : s.rd = halfBase s.params (sigHalf sig.other) + k

/-- A step of STREAM that the schedule names, the transfer enabled (R106, R128). -/
theorem step_of_stream_sched {s : State} {k : Nat} {rest : List Choice} (hr : s.Running) (hx : s.xferEn = true)
    (hrd : s.rd < s.params.buflen) (hs : s.sched = ⟨.stream, k⟩ :: rest) : step s = .next (dropChoice (deliver s)) := by
  rw [step_of_turn hr (nextTurn_of_sched hs hx), runTurn, exec, execStream_of_enabled hx hrd, onNext_next]

namespace Unserviced

variable {sig : Sig} {k : Nat} {s : State} {rest : List Choice}

theorem rd_lt (h : Unserviced sig k s) (hk : k < s.params.half) : s.rd < s.params.buflen := by
  have hle := halfBase_add_half_le s.params (sigHalf sig.other)
  rw [h.place]
  omega

theorem raised_deliver (h : Unserviced sig k s) : pending sig (deliver s) = true := by
  rw [pending_deliver, h.raised, Bool.true_or]

/-- The other signal is raised by the delivery of the other half's last symbol (R109). -/
theorem other_deliver_iff (h : Unserviced sig k s) (hk : k < s.params.half) :
    pending sig.other (deliver s) = true ↔ k + 1 = s.params.half := by
  rw [pending_deliver_iff h.params_ok (h.rd_lt hk), h.alone, h.place, Nat.add_assoc, Nat.add_left_cancel_iff]
  simp

/-- The delivery that raises the other signal is the one that misses the deadline (R110). -/
theorem overrun_deliver_iff (h : Unserviced sig k s) (hk : k < s.params.half) :
    (deliver s).overrun = true ↔ k + 1 = s.params.half := by
  rw [deliver_overrun_iff sig, h.on_time, h.other_deliver_iff hk]
  simp [h.raised_deliver]

/-- A delivery before the half's last leaves the signal unserviced and the run on time. -/
theorem delivers (h : Unserviced sig k s) (hk : k + 1 < s.params.half) :
    Unserviced sig (k + 1) (dropChoice (deliver s)) where
  params_ok := by simpa using h.params_ok
  running := by simpa [State.Running] using h.running
  enabled := by simpa using h.enabled
  on_time := by
    rw [dropChoice_overrun, ← Bool.not_eq_true, h.overrun_deliver_iff (by omega)]
    omega
  raised := by rw [pending_dropChoice, h.raised_deliver]
  alone := by
    rw [pending_dropChoice, ← Bool.not_eq_true, h.other_deliver_iff (by omega)]
    omega
  place := by
    have hle := halfBase_add_half_le s.params (sigHalf sig.other)
    rw [dropChoice_rd, dropChoice_params, deliver_rd, deliver_params, h.place, Nat.add_assoc, Nat.mod_eq_of_lt (by omega)]

/-- A run of STREAM steps alone is on time until the `HALF`-th after the signal was raised (R148). -/
theorem run_streams (m : Nat) (h : Unserviced sig k s) (hk : k < s.params.half) (hle : k + m ≤ s.params.half)
    (hs : s.sched = List.replicate m ⟨.stream, 0⟩ ++ rest) :
    ∃ t : State, Host.Core.run Sys2Proof.core m s = .next t ∧ (t.overrun = true ↔ k + m = s.params.half) := by
  induction m generalizing k s with
  | zero => exact ⟨s, rfl, by simp [h.on_time, Nat.ne_of_lt hk]⟩
  | succ m ih =>
    have hstep := step_of_stream_sched h.running h.enabled (h.rd_lt hk) hs
    rcases Nat.lt_or_ge (k + 1) s.params.half with hlt | hge
    · have hsched : (dropChoice (deliver s)).sched = List.replicate m ⟨.stream, 0⟩ ++ rest := by
        rw [dropChoice_sched, deliver_sched, hs]
        rfl
      have hparams : (dropChoice (deliver s)).params = s.params := by rw [dropChoice_params, deliver_params]
      obtain ⟨t, ht, hov⟩ := ih (h.delivers hlt) (by rwa [hparams]) (by rw [hparams]; omega) hsched
      rw [hparams, Nat.add_assoc, Nat.add_comm 1 m] at hov
      exact ⟨t, (run_succ_of_step m hstep).trans ht, hov⟩
    · obtain rfl : m = 0 := by omega
      exact ⟨_, run_succ_of_step 0 hstep, by rw [dropChoice_overrun, h.overrun_deliver_iff hk]⟩

end Unserviced

/-- Settles O33: at the start the signal raised is 0 deliveries old. -/
theorem deadlineIsHalfSymbols : Obligations.DeadlineIsHalfSymbols := by
  intro s rest m hp hr hx hov hraise hs hm
  have hstart : ∃ sig, Unserviced sig 0 s := by
    rcases hraise with ⟨hrd, hh, hf⟩ | ⟨hrd, hh, hf⟩
    · exact ⟨.ht, hp, hr, hx, hov, hh, hf, by simp [hrd, Sig.other]⟩
    · exact ⟨.tc, hp, hr, hx, hov, hf, hh, by simp [hrd, Sig.other]⟩
  obtain ⟨sig, h⟩ := hstart
  simpa using h.run_streams m (params_half_pos hp) (by omega) hs

end Sys2Proof.Machine
end

section
/-! The configuration load (spec/44_init.md): what `INIT` answers in each state of the initialization (R115, R118), and
which HOST commands need a successful `INIT` (R119). -/

namespace Sys2Proof.Machine

/-! ### The operand checks -/

/-- The operands of an `INIT` that R114 calls valid; `timer` is not checked. -/
def ValidOperands (p : Params) (cfg : CfgRegs) : Prop :=
  cfg.dmaCh ∈ p.dmaChValid ∧ p.clkThreshold < cfg.clk.toNat ∧ 1 ≤ cfg.outCh.toNat ∧ cfg.outCh.toNat ≤ 4

theorem dmaChOk_iff (p : Params) (dmaCh : BitVec 8) : dmaChOk p dmaCh = true ↔ dmaCh ∈ p.dmaChValid :=
  List.contains_iff_mem

theorem clkOk_iff (p : Params) (clk : BitVec 32) : clkOk p clk = true ↔ p.clkThreshold < clk.toNat := decide_eq_true_iff

theorem outChOk_iff (outCh : BitVec 8) : outChOk outCh = true ↔ 1 ≤ outCh.toNat ∧ outCh.toNat ≤ 4 := by
  rw [outChOk, Bool.and_eq_true, decide_eq_true_iff, decide_eq_true_iff, outChMin, outChMax]

/-- The two nested tests of R115 pass together exactly for the valid operands of R114. -/
theorem checks_iff_validOperands (p : Params) (cfg : CfgRegs) :
    dmaChOk p cfg.dmaCh = true ∧ (clkOk p cfg.clk && outChOk cfg.outCh) = true ↔ ValidOperands p cfg := by
  rw [Bool.and_eq_true, dmaChOk_iff, clkOk_iff, outChOk_iff, ValidOperands]

/-! ### The load -/

theorem initLoad_of_valid {cfg : CfgRegs} {s : State} (h : ValidOperands s.params cfg) :
    initLoad cfg s = initReady cfg s := by
  obtain ⟨hdma, hrest⟩ := (checks_iff_validOperands s.params cfg).2 h
  rw [initLoad, if_pos hdma, if_pos hrest]

/-- Whichever test fails, the failure is the same (R116). -/
theorem initLoad_of_not_valid {cfg : CfgRegs} {s : State} (h : ¬ ValidOperands s.params cfg) :
    initLoad cfg s = initFailed s := by
  rw [← checks_iff_validOperands] at h
  unfold initLoad
  split
  · exact if_neg fun hrest => h ⟨‹_›, hrest⟩
  · rfl

/-! ### INIT in each state of the initialization -/

/-- A free HOST's first `INIT` is the load (R115). -/
theorem execInit_of_uninit {s : State} (dmaCh timer outCh : BitVec 8) (clk : BitVec 32) (hw : s.work = .idle)
    (hi : s.initState = .uninit) :
    exec (.init dmaCh timer outCh clk) s = .next (initLoad ⟨dmaCh, timer, outCh, clk⟩ s) := by
  simp only [exec, execInit, whenHostFree_idle _ hw, hi]

/-- Settles O20: the first `INIT` is the load, which with valid operands is `initReady`, the state stated. -/
theorem initLoadsConfiguration : Obligations.InitLoadsConfiguration := by
  intro s dmaCh timer outCh clk hw hi hdma hclk hmin hmax
  rw [execInit_of_uninit dmaCh timer outCh clk hw hi, initLoad_of_valid ⟨hdma, hclk, hmin, hmax⟩]
  rfl

/-- Settles O21: the first `INIT` is the load, which with an invalid operand is `initFailed`; its free value is the one
stated to exist. -/
theorem initReportsBadOperand : Obligations.InitReportsBadOperand := by
  intro s dmaCh timer outCh clk hw hi hbad
  refine ⟨Config.failedCfg s.fresh, s.fresh + 1, ?_⟩
  have hload : initLoad ⟨dmaCh, timer, outCh, clk⟩ s = initFailed s := initLoad_of_not_valid hbad
  rw [execInit_of_uninit dmaCh timer outCh clk hw hi, hload]
  rfl

/-- Settles O22: the state of the initialization is tested before any operand. -/
theorem secondInitRefused : Obligations.SecondInitRefused := by
  intro s dmaCh timer outCh clk hw hi
  rcases hi with hi | hi <;> simp only [exec, execInit, whenHostFree_idle _ hw, hi]

/-! ### The commands before a successful INIT -/

/-- A free HOST's `DISPLAY` on a block that is not READY is refused (R119). -/
theorem execDisplay_of_not_ready {s : State} (hw : s.work = .idle) (hi : s.initState ≠ .ready) :
    exec .display s = .refused .displayNotReady := by
  rw [exec, execDisplay, whenHostFree_idle _ hw]
  split
  · contradiction
  · rfl
  · rfl

/-- Settles O23: of the HOST's commands on the Pixel Store none tests the state of the initialization. -/
theorem displayWithoutInitRefused : Obligations.DisplayWithoutInitRefused := fun _ hw hi =>
  ⟨execDisplay_of_not_ready hw hi, fun _ r g b hlt => ⟨_, execSet_of_lt r g b hw hlt⟩,
    fun _ hlt => ⟨_, execClear_of_lt hw hlt⟩, ⟨_, execClearAll_of_idle hw⟩⟩

end Sys2Proof.Machine
end

section
/-! The turns that are enabled and the one that is taken (R128, R130), and the end of a run, where none is (R158). -/

namespace Sys2Proof.Machine

/-! ### The turn that is taken -/

/-- Each turn is the HOST's, the STREAMER's, or the IRQ step of a signal (R128). -/
theorem turn_cases (tn : Turn) : tn = .host ∨ tn = .stream ∨ ∃ sig : Sig, tn = sig.turn := by
  cases tn with
  | host => exact .inl rfl
  | irqHt => exact .inr (.inr ⟨.ht, rfl⟩)
  | irqTc => exact .inr (.inr ⟨.tc, rfl⟩)
  | stream => exact .inr (.inl rfl)

theorem mem_enabledTurns {s : State} {tn : Turn} : tn ∈ enabledTurns s ↔ turnEnabled s tn = true := by
  rw [enabledTurns, List.mem_filter, and_iff_right (by cases tn <;> simp)]

/-- A turn is taken exactly when one is enabled (R128). -/
theorem nextTurn_eq_none_iff {s : State} : nextTurn s = none ↔ ∀ tn, turnEnabled s tn = false := by
  refine ⟨nextTurn_none, fun hdis => ?_⟩
  cases htn : nextTurn s with
  | none => rfl
  | some tn => cases (hdis tn).symm.trans (nextTurn_enabled htn)

theorem enabledTurns_eq_nil_of_nextTurn {s : State} (h : nextTurn s = none) : enabledTurns s = [] :=
  List.eq_nil_iff_forall_not_mem.2 fun tn hmem => by cases (nextTurn_none h tn).symm.trans (mem_enabledTurns.1 hmem)

/-- Settles O35: the schedule's choice is taken when its turn is enabled, and the STREAMER's turn is enabled by `xfer_en`
alone. -/
theorem everyEnabledTurnCanBeTaken : Obligations.EveryEnabledTurnCanBeTaken := by
  intro s tn k rest hr hen
  have htn : nextTurn { s with sched := ⟨tn, k⟩ :: rest } = some tn := nextTurn_of_sched rfl hen
  have hr' : ({ s with sched := ⟨tn, k⟩ :: rest } : State).Running := hr
  exact ⟨htn, step_of_turn hr' htn, id⟩

/-- Settles O36: of the two cases of `step_next` the one waits, no turn being enabled, the other runs one that is. -/
theorem onlyEnabledTurnsAreTaken : Obligations.OnlyEnabledTurnsAreTaken := by
  intro s t h
  obtain ⟨hr, ⟨hnone, rfl⟩ | ⟨tn, u, -, hen, hu, rfl⟩⟩ := step_next h
  · exact ⟨hr, .inl ⟨enabledTurns_eq_nil_of_nextTurn hnone, rfl⟩⟩
  · exact ⟨hr, .inr ⟨tn, mem_enabledTurns.2 hen, u, hu, rfl⟩⟩

/-! ### The end of a run -/

/-- The HOST has no micro-step exactly when it is silent (R128 (d)). -/
theorem hostHasWork_eq_false_iff {s : State} : hostHasWork s = false ↔ s.HostSilent := by
  unfold hostHasWork State.HostSilent
  split <;> simp_all

/-- No turn is enabled exactly when the HOST is silent, the transfer disabled and no flag pending (R128). -/
theorem turnEnabled_eq_false_iff {s : State} : (∀ tn, turnEnabled s tn = false) ↔
    s.HostSilent ∧ s.xferEn = false ∧ s.pendHalf = false ∧ s.pendFull = false := by
  rw [← hostHasWork_eq_false_iff]
  constructor
  · intro hdis
    have hh : s.pendHalf = false := hdis .irqHt
    have hf : s.pendFull = false := hdis .irqTc
    exact ⟨by simpa [turnEnabled, anyPending, hh, hf] using hdis .host, hdis .stream, hh, hf⟩
  · rintro ⟨hw, hx, hh, hf⟩ tn
    cases tn with
    | host => rw [turnEnabled, hw, Bool.false_and]
    | irqHt => exact hh
    | irqTc => exact hf
    | stream => exact hx

/-- A block whose HOST is silent and whose transfer is disabled is IDLE or DONE (R31 (a), R86). -/
theorem State.Inv.idle_or_done {s : State} (hs : s.Inv) (hsilent : s.HostSilent) (hx : s.xferEn = false) :
    s.st = .idle ∨ s.st = .done := by
  obtain ⟨-, hw⟩ := hsilent
  cases hst : s.st with
  | idle => exact .inl rfl
  | armed => exact absurd hst (hs.not_armed (by simp [hw]))
  | streaming => cases hx.symm.trans (hs.enabled_iff_streaming.2 hst)
  | done => exact .inr rfl

/-- Settles O53: no turn is enabled; the invariant then leaves IDLE and DONE of the scheduler's states. -/
theorem noStepExactlyAtRunEnd : Obligations.NoStepExactlyAtRunEnd := by
  intro s hs ⟨hfault, href⟩
  rw [nextTurn_eq_none_iff, turnEnabled_eq_false_iff]
  constructor
  · rintro ⟨hsilent, hx, hh, hf⟩
    exact ⟨hsilent, hs.idle_or_done hsilent hx, hx, hh, hf, hfault, href⟩
  · rintro ⟨hsilent, -, hx, hh, hf, -, -⟩
    exact ⟨hsilent, hx, hh, hf⟩

end Sys2Proof.Machine
end

section
/-! What holds while a flag is pending (R127, R129): the HOST is held, so what only the HOST writes is kept, and the flag
stays until a handler clears it. -/

namespace Sys2Proof.Machine

/-- While a signal is pending the HOST has no turn (R129). -/
theorem host_disabled_of_pending {s : State} {sig : Sig} (hp : pending sig s = true) : turnEnabled s .host = false := by
  by_contra hen
  obtain ⟨hh, hf⟩ := not_pending_of_host_enabled (Bool.eq_true_of_not_eq_false hen)
  cases sig with
  | ht => cases hh.symm.trans hp
  | tc => cases hf.symm.trans hp

/-- What only the HOST writes is in `t` as it is in `s`: its program and its command in progress, the Pixel Store, the
configuration (R129). -/
def HostKept (s t : State) : Prop :=
  t.cmds = s.cmds ∧ t.work = s.work ∧ t.pix = s.pix ∧ t.initState = s.initState ∧ t.status = s.status ∧ t.cfg = s.cfg

theorem hostKept_handler (sig : Sig) (s : State) : HostKept s (handler sig s) := by
  rcases handler_cases sig s with ⟨-, e⟩ | ⟨-, e⟩
  · rw [e]
    exact ⟨rfl, rfl, rfl, rfl, rfl, rfl⟩
  · rw [e]
    cases sig <;> simp [HostKept]

theorem hostKept_dropChoice {s t : State} (h : HostKept s t) : HostKept s (dropChoice t) := by
  simpa [HostKept] using h

/-- A step in which the HOST has no turn keeps what only the HOST writes. -/
theorem hostKept_step {s t : State} (hdis : turnEnabled s .host = false) (h : step s = .next t) : HostKept s t := by
  obtain ⟨-, ⟨-, rfl⟩ | ⟨tn, u, -, hen, hu, rfl⟩⟩ := step_next h
  · exact ⟨rfl, rfl, rfl, rfl, rfl, rfl⟩
  refine hostKept_dropChoice ?_
  rcases turn_cases tn with rfl | rfl | ⟨sig, rfl⟩
  · cases hdis.symm.trans hen
  · obtain ⟨-, -, rfl⟩ := execStream_next hu
    exact ⟨rfl, rfl, rfl, rfl, rfl, rfl⟩
  · rw [runTurn_turn] at hu
    obtain ⟨-, rfl⟩ := irqStep_cases hu
    exact hostKept_handler sig s

/-- Settles O37: either flag holds the HOST, and the other agents keep what only the HOST writes. -/
theorem hostHeldWhileFlagPending : Obligations.HostHeldWhileFlagPending := by
  intro s hp
  have hdis : turnEnabled s .host = false := by
    rcases hp with hh | hf
    · exact host_disabled_of_pending (sig := .ht) hh
    · exact host_disabled_of_pending (sig := .tc) hf
  exact ⟨hdis, fun t h => hostKept_step hdis h⟩

theorem Sig.eq_or_eq_other (sig sig' : Sig) : sig' = sig ∨ sig' = sig.other := by
  cases sig <;> cases sig' <;> simp [Sig.other]

/-- A handler below the threshold leaves the other signal's flag as it is (R89). -/
theorem pending_other_handler {sig : Sig} {s : State} (hc : s.cursor < s.params.threshold) :
    pending sig (handler sig.other s) = pending sig s := by
  rw [handler, if_neg (Nat.not_le.2 hc)]
  cases sig <;> simp [refill, pending, Sig.other]

/-- A pending signal is cleared only by its own handler or by the other one terminating (R127). -/
theorem turn_of_pending_cleared {sig : Sig} {s t : State} (h : step s = .next t) (hp : pending sig s = true)
    (hq : pending sig t = false) :
    nextTurn s = some sig.turn ∨ (nextTurn s = some sig.other.turn ∧ s.params.threshold ≤ s.cursor) := by
  obtain ⟨-, ⟨-, rfl⟩ | ⟨tn, u, htn, hen, hu, rfl⟩⟩ := step_next h
  · cases hq.symm.trans hp
  rw [pending_dropChoice] at hq
  rcases turn_cases tn with rfl | rfl | ⟨sig', rfl⟩
  · cases (host_disabled_of_pending hp).symm.trans hen
  · obtain ⟨-, -, rfl⟩ := execStream_next hu
    rw [pending_deliver, hp, Bool.true_or] at hq
    cases hq
  · rcases sig.eq_or_eq_other sig' with rfl | rfl
    · exact .inl htn
    · refine .inr ⟨htn, Nat.le_of_not_lt fun hc => ?_⟩
      rw [runTurn_turn] at hu
      obtain ⟨-, rfl⟩ := irqStep_cases hu
      cases hq.symm.trans ((pending_other_handler hc).trans hp)

/-- Settles O38: a clause for each signal. -/
theorem flagsClearedOnlyByHandler : Obligations.FlagsClearedOnlyByHandler := fun _ _ h =>
  ⟨turn_of_pending_cleared (sig := .ht) h, turn_of_pending_cleared (sig := .tc) h⟩

end Sys2Proof.Machine
end

section
/-! The stops of a step (R121, R122, R124): under the invariant they are the faults and refusals of the HOST's commands. -/

namespace Sys2Proof.Machine

theorem execSet_of_le {s : State} {index : Nat} (r g b : Byte) (hw : s.work = .idle) (hi : s.params.n ≤ index) :
    exec (.set index r g b) s = .fault (.indexOutOfRange index) := by
  rw [exec, execSet, whenHostFree_idle _ hw, if_pos hi]

theorem execClear_of_le {s : State} {index : Nat} (hw : s.work = .idle) (hi : s.params.n ≤ index) :
    exec (.clear index) s = .fault (.indexOutOfRange index) := by
  rw [exec, execClear, whenHostFree_idle _ hw, if_pos hi]

/-- Settles O19: a free HOST's `SET` and `CLEAR` test the index before any write. -/
theorem indexOutOfRangeFaults : Obligations.IndexOutOfRangeFaults := fun _ _ hw hi =>
  ⟨fun r g b => execSet_of_le r g b hw hi, execClear_of_le hw hi⟩

/-- If an outcome is a stop, it is one that the spec gives: the fault of R121 with an index outside the strip, or one of the
four refusals of R122. -/
def StopsAsSpecified (p : Params) : Host.Outcome State Fault Refusal → Prop
  | .next _ => True
  | .fault f => ∃ index, f = .indexOutOfRange index ∧ p.n ≤ index
  | .refused r => r = .reservedOpcode ∨ r = .reservedField ∨ r = .reInit ∨ r = .displayNotReady

theorem stopsAsSpecified_onNext {p : Params} (f : State → State) {o : Host.Outcome State Fault Refusal}
    (h : StopsAsSpecified p o) : StopsAsSpecified p (onNext f o) := by
  cases o with
  | next t => trivial
  | fault r => exact h
  | refused r => exact h

/-- A free HOST's command stops for its index or for the state of the initialization alone (R118, R119, R124). -/
theorem stopsAsSpecified_hostCommand {w : CmdWord} {i : Instr} {s : State} (hd : decodeCommand w = .ok i)
    (hw : s.work = .idle) : StopsAsSpecified s.params (exec i s) := by
  rcases decodeCommand_cases hd with ⟨dmaCh, timer, outCh, clk, rfl⟩ | ⟨index, r, g, b, rfl⟩ | ⟨index, rfl⟩ | rfl | rfl
  · cases hi : s.initState with
    | uninit => rw [execInit_of_uninit dmaCh timer outCh clk hw hi]; trivial
    | ready => rw [secondInitRefused s dmaCh timer outCh clk hw (.inl hi)]; exact .inr (.inr (.inl rfl))
    | failed => rw [secondInitRefused s dmaCh timer outCh clk hw (.inr hi)]; exact .inr (.inr (.inl rfl))
  · rcases Nat.lt_or_ge index s.params.n with hlt | hge
    · rw [execSet_of_lt r g b hw hlt]; trivial
    · rw [execSet_of_le r g b hw hge]; exact ⟨index, rfl, hge⟩
  · rcases Nat.lt_or_ge index s.params.n with hlt | hge
    · rw [execClear_of_lt hw hlt]; trivial
    · rw [execClear_of_le hw hge]; exact ⟨index, rfl, hge⟩
  · rw [execClearAll_of_idle hw]; trivial
  · by_cases hi : s.initState = .ready
    · rw [execDisplay_of_ready hw hi]; trivial
    · rw [execDisplay_of_not_ready hw hi]; exact .inr (.inr (.inr rfl))

/-- The HOST's turn stops at a word that names no command, or as its command does (R63, R64). -/
theorem stopsAsSpecified_hostTurn (s : State) : StopsAsSpecified s.params (hostTurn s) := by
  obtain ⟨t, ht⟩ := hostMicro_completes s
  unfold hostTurn
  split
  · split
    · trivial
    · split
      · exact stopsAsSpecified_hostCommand (s := { s with cmds := _ }) ‹_› ‹_›
      · rename_i e _
        cases e with
        | reservedOpcode => exact .inl rfl
        | reservedField => exact .inr (.inl rfl)
  · rw [ht]; trivial
  · rw [ht]; trivial

/-- Under the invariant an enabled turn stops only if it is the HOST's: `rd` is inside the buffer (R17). -/
theorem stopsAsSpecified_runTurn {s : State} {tn : Turn} (hs : s.Inv) (hen : turnEnabled s tn = true) :
    StopsAsSpecified s.params (runTurn tn s) := by
  rcases turn_cases tn with rfl | rfl | ⟨sig, rfl⟩
  · exact stopsAsSpecified_hostTurn s
  · rw [runTurn, exec, execStream_of_enabled hen hs.rd_range]; trivial
  · rw [turnEnabled_turn] at hen
    rw [runTurn_turn, irqStep_of_pending hen]; trivial

/-- Under the invariant a running machine's step stops only as the spec gives it (R121, R122). -/
theorem stopsAsSpecified_step {s : State} (hs : s.Inv) (hr : s.Running) : StopsAsSpecified s.params (step s) := by
  cases htn : nextTurn s with
  | none =>
    obtain ⟨hfault, href⟩ := hr
    simp [step, stopped, hfault, href, htn, StopsAsSpecified]
  | some tn =>
    rw [step_of_turn hr htn]
    exact stopsAsSpecified_onNext dropChoice (stopsAsSpecified_runTurn hs (nextTurn_enabled htn))

/-- Settles O49: `stopsAsSpecified_step` read off for a fault and for a refusal. -/
theorem onlyTheSpecsStops : Obligations.OnlyTheSpecsStops := by
  intro s hs hr
  have h := stopsAsSpecified_step hs hr
  constructor
  · intro f hf
    rwa [hf] at h
  · intro r href
    rwa [href] at h

end Sys2Proof.Machine
end

section
/-! A display request under weak fairness (R131). Suppose it streams for ever: every IRQ step raises the cursor, which is
bounded, so from some instant on there is none; then, by fairness to the IRQ steps, no flag is pending; so every delivery
raises `rd`, which is bounded, against fairness to `STREAM`. -/

namespace Sys2Proof.Machine

/-! ### A step while streaming -/

/-- While streaming the HOST is not between D2 and D5 of `DISPLAY`, so its turn writes neither `cursor` nor `rd` (R87). -/
theorem hostTurn_while_streaming {s t : State} (hs : s.Inv) (hst : s.st = .streaming) (h : hostTurn s = .next t) :
    t.cursor = s.cursor ∧ t.rd = s.rd := by
  have hnd := hs.no_display (by simp [hst])
  rcases hostTurn_next h with ⟨-, -, rfl⟩ | ⟨w, rest, i, -, -, hd, hi⟩ | ⟨ws, -, rfl⟩ | ⟨hw, -⟩ | ⟨hw, -⟩ | ⟨hw, -⟩ |
    ⟨hw, -⟩
  · exact ⟨rfl, rfl⟩
  · obtain ⟨-, ⟨_, _, _, _, -, -, rfl | rfl⟩ | ⟨-, -, rfl⟩ | ⟨-, -, rfl⟩⟩ := hostCommand_next hd hi
    · exact ⟨rfl, rfl⟩
    · exact ⟨rfl, rfl⟩
    · rw [startWrites_frame]
      exact ⟨rfl, rfl⟩
    · exact ⟨rfl, rfl⟩
  · rw [writeStep_frame]
    exact ⟨rfl, rfl⟩
  · exact absurd hw (hnd .d2)
  · exact absurd hw (hnd .d3)
  · exact absurd hw (hnd .d4)
  · exact absurd hw (hnd .d5)

/-- A handler that does not end the request is a refill, and moves the cursor on by `B` (R89, R93). -/
theorem cursor_handler_of_not_done {sig : Sig} {s : State} (h : (handler sig s).st ≠ .done) :
    (handler sig s).cursor = s.cursor + s.params.b := by
  rcases handler_cases sig s with ⟨-, e⟩ | ⟨-, e⟩
  · rw [e] at h
    exact absurd rfl h
  · rw [e]
    cases sig <;> simp

/-- A delivery moves `rd` on by one, or leaves the buffer's last byte and `pend_full` set (R106, R109). -/
theorem rd_deliver_or_pending {s : State} (hrd : s.rd < s.params.buflen) :
    (deliver s).rd = s.rd + 1 ∨ pending .tc (deliver s) = true :=
  (next_rd_cases hrd).imp (fun ⟨_, e⟩ => e) fun ⟨_, e⟩ => deliver_pendFull_iff.2 (.inr e)

/-- From `s` to `t` the request streams on: by a refill, which moves the cursor on; by a delivery, which moves `rd` on unless
it leaves `pend_full` set; or by a step, of the HOST or waiting, that moves neither. -/
inductive StreamsOn (s t : State) : Prop
  | refill (sig : Sig) (turn : nextTurn s = some sig.turn) (cursor : s.cursor < t.cursor)
  | delivery (turn : nextTurn s = some .stream) (cursor : t.cursor = s.cursor)
      (rd : t.rd = s.rd + 1 ∨ pending .tc t = true)
  | other (turn : ∀ tn, nextTurn s = some tn → tn = .host) (cursor : t.cursor = s.cursor) (rd : t.rd = s.rd)

/-- The schedule plays no part in the state reached. -/
theorem StreamsOn.reschedule {s t : State} (h : StreamsOn s t) (sched : List Choice) :
    StreamsOn s { t with sched := sched } := by
  cases h with
  | refill sig turn cursor => exact .refill sig turn cursor
  | delivery turn cursor rd => exact .delivery turn cursor rd
  | other turn cursor rd => exact .other turn cursor rd

theorem StreamsOn.cursor_le {s t : State} (h : StreamsOn s t) : s.cursor ≤ t.cursor := by
  cases h with
  | refill _ _ cursor => exact Nat.le_of_lt cursor
  | delivery _ cursor _ => exact Nat.le_of_eq cursor.symm
  | other _ cursor _ => exact Nat.le_of_eq cursor.symm

/-- A step that leaves a streaming request streaming streams it on. -/
theorem streamsOn_of_step {s t : State} (hs : s.Inv) (hst : s.st = .streaming) (hst' : t.st = .streaming)
    (h : step s = .next t) : StreamsOn s t := by
  obtain ⟨-, ⟨hnone, rfl⟩ | ⟨tn, u, htn, -, hu, rfl⟩⟩ := step_next h
  · exact .other (by simp [hnone]) rfl rfl
  rw [dropChoice_st] at hst'
  rcases turn_cases tn with rfl | rfl | ⟨sig, rfl⟩
  · obtain ⟨hcur, hrd⟩ := hostTurn_while_streaming hs hst hu
    exact .other (by simp [htn]) (by rw [dropChoice_cursor, hcur]) (by rw [dropChoice_rd, hrd])
  · obtain ⟨-, hrd, rfl⟩ := execStream_next hu
    refine .delivery htn (by simp) ?_
    rw [dropChoice_rd, pending_dropChoice]
    exact rd_deliver_or_pending hrd
  · rw [runTurn_turn] at hu
    obtain ⟨-, rfl⟩ := irqStep_cases hu
    refine .refill sig htn ?_
    rw [dropChoice_cursor, cursor_handler_of_not_done (by simp [hst'])]
    exact Nat.lt_add_of_pos_right hs.params_ok.b_pos

/-! ### Executions -/

section
variable {σ : Nat → State} {i j : Nat}

/-- The invariant holds along an execution: the schedule given anew before each step is none of its business. -/
theorem Execution.inv_of_le (hex : Execution σ) (hi : (σ i).Inv) (hij : i ≤ j) : (σ j).Inv := by
  induction j, hij using Nat.le_induction with
  | base => exact hi
  | succ j _ ih =>
    obtain ⟨t, sched, ht, e⟩ := hex j
    rw [e]
    exact State.inv_sched (stepKeepsInvariant _ t ih ht) sched

/-- The parameters are the same at every later instant (R33). -/
theorem Execution.params_of_le (hex : Execution σ) (hij : i ≤ j) : (σ j).params = (σ i).params := by
  induction j, hij using Nat.le_induction with
  | base => rfl
  | succ j _ ih =>
    obtain ⟨t, sched, ht, e⟩ := hex j
    rw [e]
    exact (parametersNeverChange _ t ht).trans ih

/-- A request that is not re-armed keeps its state, or goes from STREAMING to DONE (R86, R95). -/
theorem Execution.st_succ (hex : Execution σ) (hj : (σ j).Inv) (hna : NotRearmed σ i) (hij : i ≤ j) :
    (σ (j + 1)).st = (σ j).st ∨ ((σ j).st = .streaming ∧ (σ (j + 1)).st = .done) := by
  obtain ⟨t, sched, ht, e⟩ := hex j
  have hst : (σ (j + 1)).st = t.st := by rw [e]
  have hna' := hna (j + 1) (Nat.le_succ_of_le hij)
  rw [hst] at hna' ⊢
  rcases schedulerTransitions _ t hj ht with hsame | ⟨-, harmed, -⟩ | ⟨harmed, -⟩ | ⟨hstreaming, hdone, -⟩
  · exact .inl hsame
  · exact absurd harmed hna'
  · exact absurd harmed (hna j hij)
  · exact .inr ⟨hstreaming, hdone⟩

/-- Without an IRQ step a pending flag stays pending (R127). -/
theorem Execution.pending_succ {sig : Sig} (hex : Execution σ) (hno : ∀ sig' : Sig, nextTurn (σ j) ≠ some sig'.turn)
    (hp : pending sig (σ j) = true) : pending sig (σ (j + 1)) = true := by
  obtain ⟨t, sched, ht, e⟩ := hex j
  have hpt : pending sig (σ (j + 1)) = pending sig t := by rw [e]; cases sig <;> rfl
  by_contra hq
  rw [hpt, Bool.not_eq_true] at hq
  rcases turn_of_pending_cleared ht hp hq with hown | ⟨hother, -⟩
  · exact hno sig hown
  · exact hno sig.other hother

end

/-- A bounded measure that never falls is constant from some instant on. -/
theorem eventually_constant {m : Nat → Nat} {i bound : Nat} (hmono : ∀ j, i ≤ j → m j ≤ m (j + 1))
    (hbound : ∀ j, i ≤ j → m j ≤ bound) : ∃ j, i ≤ j ∧ ∀ k, j ≤ k → m (k + 1) = m k := by
  obtain ⟨c, d, hd⟩ := converges_of_monotone_of_bounded (f := fun d => m (i + d))
    (monotone_nat_of_le_succ fun d => hmono (i + d) (Nat.le_add_right i d)) fun d => hbound _ (Nat.le_add_right i d)
  have hc : ∀ k, i + d ≤ k → m k = c := fun k hk => by
    have := hd (k - i) (by omega)
    rwa [Nat.add_sub_cancel' (by omega)] at this
  exact ⟨i + d, Nat.le_add_right i d, fun k hk => (hc _ (by omega)).trans (hc k hk).symm⟩

/-! ### A request that never ends -/

/-- From instant `i` on no IRQ step is taken. -/
def NoIrqFrom (σ : Nat → State) (i : Nat) : Prop := ∀ k, i ≤ k → ∀ sig : Sig, nextTurn (σ k) ≠ some sig.turn

/-- A fair execution in which a request streams for ever from instant `i` on. -/
structure NeverDone (σ : Nat → State) (i : Nat) : Prop where
  execution : Execution σ
  fair : Fair σ
  inv : ∀ j, i ≤ j → (σ j).Inv
  streaming : ∀ j, i ≤ j → (σ j).st = .streaming

namespace NeverDone

variable {σ : Nat → State} {i j : Nat}

theorem of_le (h : NeverDone σ i) (hij : i ≤ j) : NeverDone σ j where
  execution := h.execution
  fair := h.fair
  inv k hk := h.inv k (Nat.le_trans hij hk)
  streaming k hk := h.streaming k (Nat.le_trans hij hk)

theorem streamsOn (h : NeverDone σ i) (hij : i ≤ j) : StreamsOn (σ j) (σ (j + 1)) := by
  obtain ⟨t, sched, ht, e⟩ := h.execution j
  have hst' : t.st = .streaming := by
    have := h.streaming (j + 1) (Nat.le_succ_of_le hij)
    rwa [e] at this
  rw [e]
  exact (streamsOn_of_step (h.inv j hij) (h.streaming j hij) hst' ht).reschedule sched

/-- From some instant on there is no IRQ step: each one raises the cursor, which is bounded (R31 (c), R103). -/
theorem exists_no_irq (h : NeverDone σ i) : ∃ j, i ≤ j ∧ NoIrqFrom σ j := by
  have hbound : ∀ k, i ≤ k → (σ k).cursor ≤ ((σ i).params.signals + 1) * (σ i).params.b := fun k hk => by
    obtain ⟨-, -, hle⟩ := (h.inv k hk).cursor_bound (.inl (h.streaming k hk))
    rwa [h.execution.params_of_le hk] at hle
  obtain ⟨j, hij, hconst⟩ := eventually_constant (fun k hk => (h.streamsOn hk).cursor_le) hbound
  refine ⟨j, hij, fun k hk sig htn => ?_⟩
  cases h.streamsOn (Nat.le_trans hij hk) with
  | refill _ _ cursor => exact Nat.ne_of_gt cursor (hconst k hk)
  | delivery turn => cases sig <;> cases htn.symm.trans turn
  | other turn => cases sig <;> cases turn _ htn

/-- With no IRQ step any more no flag is ever pending: it would stay so, and its IRQ step be taken (R127, R131). -/
theorem not_pending_of_no_irq (h : NeverDone σ i) (hno : NoIrqFrom σ i) (hij : i ≤ j) (sig : Sig) :
    pending sig (σ j) = false := by
  by_contra hp
  have hstays : ∀ k, j ≤ k → pending sig (σ k) = true := fun k hk => by
    induction k, hk using Nat.le_induction with
    | base => simpa using hp
    | succ k hk ih => exact h.execution.pending_succ (hno k (Nat.le_trans hij hk)) ih
  have hfair : WeaklyFair sig.turn σ := by
    cases sig with
    | ht => exact h.fair.irq_ht
    | tc => exact h.fair.irq_tc
  obtain ⟨k, hk, htn⟩ := hfair j fun k hk => (turnEnabled_turn sig _).trans (hstays k hk)
  exact hno k (Nat.le_trans hij hk) sig htn

/-- With no IRQ step any more every delivery moves `rd` on by one, and nothing else moves it (R106, R109). -/
theorem rd_succ_of_no_irq (h : NeverDone σ i) (hno : NoIrqFrom σ i) (hij : i ≤ j) :
    (nextTurn (σ j) = some .stream ∧ (σ (j + 1)).rd = (σ j).rd + 1) ∨
      (nextTurn (σ j) ≠ some .stream ∧ (σ (j + 1)).rd = (σ j).rd) := by
  cases h.streamsOn hij with
  | refill sig turn => exact absurd turn (hno j hij sig)
  | delivery turn _ rd =>
    refine .inl ⟨turn, rd.resolve_right ?_⟩
    simp [h.not_pending_of_no_irq hno (Nat.le_succ_of_le hij)]
  | other turn _ rd => exact .inr ⟨fun hs => Turn.noConfusion (turn _ hs), rd⟩

end NeverDone

/-- A fair execution does not stream for ever: from some instant on `rd`, being bounded, would no longer move, yet `STREAM`
be taken (R131). -/
theorem not_neverDone {σ : Nat → State} {i : Nat} : ¬ NeverDone σ i := by
  intro h
  obtain ⟨j, hij, hno⟩ := h.exists_no_irq
  have hj := h.of_le hij
  have hrd := fun k hk => hj.rd_succ_of_no_irq hno (j := k) hk
  have hbound : ∀ k, j ≤ k → (σ k).rd ≤ (σ j).params.buflen := fun k hk => by
    rw [← hj.execution.params_of_le hk]
    exact Nat.le_of_lt (hj.inv k hk).rd_range
  have hmono : ∀ k, j ≤ k → (σ k).rd ≤ (σ (k + 1)).rd := fun k hk => by
    rcases hrd k hk with ⟨-, e⟩ | ⟨-, e⟩ <;> omega
  obtain ⟨k, hk, hconst⟩ := eventually_constant hmono hbound
  have hen : ∀ l, k ≤ l → turnEnabled (σ l) .stream = true := fun l hl =>
    (hj.inv l (Nat.le_trans hk hl)).enabled_iff_streaming.2 (hj.streaming l (Nat.le_trans hk hl))
  obtain ⟨l, hl, htn⟩ := h.fair.stream k hen
  rcases hrd l (Nat.le_trans hk hl) with ⟨-, hmoved⟩ | ⟨hnot, -⟩
  · exact Nat.succ_ne_self _ (hmoved.symm.trans (hconst l hl))
  · exact hnot htn

/-- Settles O58: the request streams on until it is DONE, which fairness brings about, and stays DONE. -/
theorem fairRequestReachesDone : Obligations.FairRequestReachesDone := by
  intro σ i hex hfair hinv hst hna
  have hinv' : ∀ j, i ≤ j → (σ j).Inv := fun j hij => hex.inv_of_le hinv hij
  obtain ⟨j, hij, hdone⟩ : ∃ j, i ≤ j ∧ (σ j).st = .done := by
    by_contra hnever
    have hstreams : ∀ j, i ≤ j → (σ j).st = .streaming := fun j hij => by
      induction j, hij using Nat.le_induction with
      | base => exact hst
      | succ j hij ih =>
        rcases hex.st_succ (hinv' j hij) hna hij with hsame | ⟨-, hd⟩
        · exact hsame.trans ih
        · exact absurd ⟨j + 1, by omega, hd⟩ hnever
    exact not_neverDone ⟨hex, hfair, hinv', hstreams⟩
  refine ⟨j, hij, fun k hk => ?_⟩
  induction k, hk using Nat.le_induction with
  | base => exact hdone
  | succ k hk ih =>
    have hik := Nat.le_trans hij hk
    rcases hex.st_succ (hinv' k hik) hna hik with hsame | ⟨-, hd⟩
    · exact hsame.trans ih
    · exact hd

end Sys2Proof.Machine
end

section
/-! Who may step outside STREAMING, and so after reset (R128, R145). -/

namespace Sys2Proof.Machine

/-- Outside STREAMING the turns enabled are the HOST's, if it has work, and no other: the transfer is disabled and no flag
is pending (R31 (a), (b), R128). -/
theorem State.Inv.turnEnabled_iff_of_not_streaming {s : State} (hs : s.Inv) (hst : s.st ≠ .streaming) {tn : Turn} :
    turnEnabled s tn = true ↔ tn = .host ∧ hostHasWork s = true := by
  obtain ⟨hx, hh, hf⟩ := hs.quiet hst
  cases tn with
  | host => simp [turnEnabled, anyPending, hh, hf]
  | irqHt => simp [turnEnabled, hh]
  | irqTc => simp [turnEnabled, hf]
  | stream => simp [turnEnabled, hx]

/-- Settles O46: reset meets the invariant and leaves the block IDLE, so outside STREAMING, whatever the program. -/
theorem resetEnablesOnlyHost : Obligations.ResetEnablesOnlyHost := by
  intro cmds tn hmem
  have hinv : ({ State.reset with cmds := cmds } : State).Inv := resetMeetsInvariant.2 Config.params cmds Config.params_ok
  have hst : State.reset.st ≠ .streaming := by
    obtain ⟨hidle, -⟩ := resetLeavesBlockIdle
    simp [hidle]
  exact ((hinv.turnEnabled_iff_of_not_streaming hst).1 (mem_enabledTurns.1 hmem)).1

end Sys2Proof.Machine
end
